-- ==== Sys2Proof/Word.lean ====
section
/-! DEFINITION. The words of the DP-64: the bytes that cross its lines, a byte's ten bits on a line, and its 16-bit cycle
numbers. -/

namespace Sys2Proof

/-- One byte of a frame, a record or the store image. -/
abbrev Byte := BitVec 8

/-- A 16-bit value that wraps: a cycle number (0.6) or a check sequence (R193). -/
abbrev Half := BitVec 16

/-- The ten bits of a byte on a line, in the order in which they cross it from bit 0 on: the start bit, eight data bits and
the stop bit (R1, R162). A bit is 1 for mark and 0 for space (notes/assumptions/24.md). -/
abbrev LineWord := BitVec 10

end Sys2Proof
end

