-- ==== Sys2Proof/Syntax.lean ====
section
/-! DEFINITION. The commands of the DP-64: one constructor for each row of spec/opcode_table.json, with its operands.
The rows have no bits. The operands are what the lines and the memory deliver with the event (notes/assumptions/1.md). -/

namespace Sys2Proof

/-- The trunk lines (R1). -/
inductive Line where
  | a
  | b
  deriving DecidableEq, Repr

/-- The two samples that a trunk receiver takes of every bit of a byte, start, data and stop: the earlier of each bit and the
later (R6). -/
structure ByteSamples where
  early : LineWord
  late : LineWord
  deriving DecidableEq, Repr

/-- How long a line has been idle before an activity on it: at most 2 byte-times, more than 2 and less than 3, or at least
3 (R7). -/
inductive Idle where
  | short
  | gap
  | long
  deriving DecidableEq, Repr

/-- One activity on a trunk line as its receiver samples it (R6, R7): a byte, or a burst too short to form one, with the idle
on the line before it. -/
structure LineSamples where
  idle : Idle
  byte : Option ByteSamples
  deriving DecidableEq, Repr

/-- What a line has shown by the moment the reply timeout expires, where it has not concluded (R7, R8): nothing,
activity that started no frame, or a frame that has started and has not ended. -/
inductive TimeoutSight where
  | quiet
  | activity
  | started
  deriving DecidableEq, Repr

/-- The defects of R166 that are found at a byte: a length byte above 240, or a framing error. -/
inductive UplinkDefect where
  | lengthAbove240
  | framing
  deriving DecidableEq, Repr

/-- What the write of a SAVE has left in the memory (R184): the image as it was written, or other bytes. -/
inductive WriteResult where
  | intact
  | corrupt (bytes : List Byte)
  deriving DecidableEq, Repr

/-- A command: an event of the part as spec/opcode_table.json lists it. A request is a complete frame whose check
is right, given by its address byte and its payload bytes (R163, R196). -/
inductive Instr where
  | powerOn
  | resetAssert
  | resetRelease
  | startUpEnd
  | restartTaken
  | saveWriteEnd (result : WriteResult)
  | cycleTimerExpiry
  | trunkFrameSend
  | trunkFrameEnd
  | lineFrameEnds (line : Line) (shown : List LineSamples)
  | lineFrameGap (line : Line)
  | replyTimeout (sightA sightB : TimeoutSight)
  | loadTimeout
  | uplinkIdleSeen
  | otherStationDone
  | uplinkFrameGap
  | uplinkFrameDefect (defect : UplinkDefect)
  | uplinkCheckFail (address code : Byte) (payload : List Byte) (check : Half)
  | frameForOtherStation (address code : Byte) (payload : List Byte)
  | unknownRequestCode (address code : Byte) (payload : List Byte)
  | responseSend
  | responseSent
  | breakCharacter (received : List Byte)
  | spaceEndsEarly
  | lineBreak
  | breakEnd
  | status (address : Byte) (payload : List Byte)
  | counters (address : Byte) (payload : List Byte)
  | ident (address : Byte) (payload : List Byte)
  | mode (address : Byte) (payload : List Byte)
  | save (address : Byte) (payload : List Byte)
  | restart (address : Byte) (payload : List Byte)
  | lineReport (address : Byte) (payload : List Byte)
  | skip (address : Byte) (payload : List Byte)
  | readReadings (address : Byte) (payload : List Byte)
  | forceSet (address : Byte) (payload : List Byte)
  | forceClear (address : Byte) (payload : List Byte)
  | forceList (address : Byte) (payload : List Byte)
  | readPairs (address : Byte) (payload : List Byte)
  | summaryOpen (address : Byte) (payload : List Byte)
  | summaryNext (address : Byte) (payload : List Byte)
  | summaryClose (address : Byte) (payload : List Byte)
  | takeAlerts (address : Byte) (payload : List Byte)
  | loadOpen (address : Byte) (payload : List Byte)
  | loadRows (address : Byte) (payload : List Byte)
  | loadClose (address : Byte) (payload : List Byte)
  | loadAbandon (address : Byte) (payload : List Byte)
  | commit (address : Byte) (payload : List Byte)
  | readTable (address : Byte) (payload : List Byte)
  | relaySend (address : Byte) (payload : List Byte)
  | relayCollect (address : Byte) (payload : List Byte)
  | powerLoss
  deriving DecidableEq, Repr

end Sys2Proof
end

