-- ==== Sys2Proof/Machine/Check.lean ====
section
/-! DEFINITION. Bytes of numbers, bytes as bits on a line (R1, R162), and the 16-bit check sequence (R193). -/

namespace Sys2Proof.Machine

/-- The byte that carries a small number or a code (R193). -/
def byte (n : Nat) : Byte := BitVec.ofNat 8 n

/-- A 16-bit number, high byte first (R193). -/
def wordBytes (h : Half) : List Byte := [h.extractLsb' 8 8, h.extractLsb' 0 8]

/-- An unsigned 16-bit number as bytes, high byte first (R193). -/
def natBytes (n : Nat) : List Byte := wordBytes (BitVec.ofNat 16 n)

/-- A number that can be negative, as 16-bit two's complement, high byte first (R193). -/
def intBytes (i : Int) : List Byte := wordBytes (BitVec.ofInt 16 i)

/-- The 16-bit word of a high byte and a low byte (R193). -/
def wordOf (hi lo : Byte) : Half := hi ++ lo

/-- The unsigned number of a high byte and a low byte (R193). -/
def natOf (hi lo : Byte) : Nat := (wordOf hi lo).toNat

/-- The two's complement number of a high byte and a low byte (R193). -/
def intOf (hi lo : Byte) : Int := (wordOf hi lo).toInt

/-- A byte's bits on a line: the start bit, the data bits with the least significant first, and the stop bit (R1, R162). The
start bit is space and the stop bit mark, DEDUCED; a data bit of 1 is mark, PRESUMED (notes/assumptions/24.md). -/
def lineWord (b : Byte) : LineWord := 1#1 ++ b ++ 0#1

/-- The bits of a line's word in the order sent; true is mark. -/
def wordLevels (w : LineWord) : List Bool := (List.range 10).map fun k => w.getLsbD k

/-- The bits that cross a line as bytes are sent on it, the bytes without gaps (R1, R162). -/
def lineLevels (bytes : List Byte) : List Bool := bytes.flatMap fun b => wordLevels (lineWord b)

/-- A flag in bit `k` of a byte. -/
def bitAt (k : Nat) (b : Bool) : Nat := if b then 2 ^ k else 0

/-- One bit of the check: the register moves left and, where its top bit was 1, takes x^12 + x^5 + 1 (R193). -/
def checkBit (r : Half) : Half := if r.msb then (r <<< 1) ^^^ 0x1021#16 else r <<< 1

/-- One byte of the check, most significant bit first (R193). -/
def checkByte (r : Half) (b : Byte) : Half := Nat.repeat checkBit 8 (r ^^^ (b ++ 0#8))

/-- The check sequence of a span of bytes: the register starts at FFFFh and nothing is inverted (R193). -/
def check16 (bs : List Byte) : Half := bs.foldl checkByte 0xFFFF#16

end Sys2Proof.Machine
end

