-- ==== Sys2Proof/Config.lean ====
section
/-! DEFINITION. What is fixed in the device (its capacities) and the one free value of the model. -/

namespace Sys2Proof.Config

/-- Positions of the POLL table (R129). -/
def pollRows : Nat := 96

/-- Channels, the indices of the PROBE table (R129). -/
def channels : Nat := 128

/-- Pairs, the indices of the PAIR table (R129). -/
def pairs : Nat := 64

/-- Zones, the indices of the ZONE table (R129). -/
def zones : Nat := 32

/-- Entries of the Force List (R58). -/
def forceEntries : Nat := 16

/-- Requests of the Relay Queue (R151). -/
def relayQueue : Nat := 8

/-- Results of the Relay Result list (R151). -/
def relayResults : Nat := 8

/-- Margins of a pair's history (R87). -/
def historyLength : Nat := 8

/-- Cycle completions a summary read sequence can hold the bank for (R119, R120). -/
def holdLimit : Nat := 4

/-- Whether a pending commit is taken before the other work of its cycle boundary: the freshness count-down of a
cycle start (R117) or the drops of the stop (R146). The manual lets either be first and says that the Alert Queue
may differ, so the choice is a free value, one for each boundary at which it matters. DESIGN CHOICE, safe
(notes/assumptions/5.md). -/
opaque commitFirst : Nat → Bool

end Sys2Proof.Config
end

