-- ==== Sys2Proof/Machine/State.lean ====
section
/-! DEFINITION. The state of the DP-64 as plain data: one structure for each block of section 0.2 with the state that
section lists against it, the queue of waiting commands, and the state after reset. -/

namespace Sys2Proof.Machine

/-- The part has no fault that stops it: what goes wrong is a status code, a line outcome, a count, a quality or a
store state. So no step raises one. Safe: a claim that a step does not fault says nothing. -/
inductive Fault where
  deriving DecidableEq, Repr

/-- Why a command has no meaning in this model. -/
inductive Refusal where
  /-- Raised by a dispatch arm that has no meaning yet, under the command's name. Safe. -/
  | notModelled (mnemonic : String)
  deriving DecidableEq, Repr

/-- A collection keyed by index: (index, row) pairs with indices strictly rising (`Keyed.wf`). -/
abbrev Keyed (α : Type) := List (Nat × α)

/-! ### The active and staged tables (chapter 8) -/

/-- What a channel measures (R38). -/
inductive ProbeKind where
  | airTemp
  | airRh
  | surfaceTemp
  deriving DecidableEq, Repr

/-- A row of the POLL table (R131): a POLL row with its node, reply timeout in ms and accept_marked, or a RELAY row. -/
inductive PollRow where
  | poll (node replyTimeout : Nat) (acceptMarked : Bool)
  | relay
  deriving DecidableEq, Repr

/-- A row of the PROBE table (R38). -/
structure ProbeRow where
  node : Nat
  slot : Nat
  kind : ProbeKind
  rawLo : Nat
  rawHi : Nat
  refLo : Int
  refHi : Int
  freshCycles : Nat
  deriving DecidableEq, Repr

/-- A row of the PAIR table (R83). -/
structure PairRow where
  airT : Nat
  airRh : Nat
  surface : Nat
  zone : Nat
  skewLimit : Nat
  deriving DecidableEq, Repr

/-- A row of the ZONE table (R84, R108). The field defaults are the manual's. -/
structure ZoneRow where
  watchAt : Int := 300
  nearAt : Int := 100
  wetAt : Int := 0
  hyst : Nat := 50
  riseCount : Nat := 2
  fallCount : Nat := 3
  lookahead : Nat := 4
  blindLimit : Nat := 0
  deriving DecidableEq, Repr

/-- The row of the GENERAL table (R130), cycle_period in ms. The field defaults are the manual's. -/
structure GeneralRow where
  uplinkAddress : Nat := 1
  cyclePeriod : Nat := 5000
  autoSurvey : Bool := false
  quarantineAfter : Nat := 4
  quarantineInterval : Nat := 8
  lineSwitchAfter : Nat := 3
  deriving DecidableEq, Repr

/-- One copy of the five tables (R129). GENERAL always holds its one row (R130). -/
structure Tables where
  poll : Keyed PollRow
  probe : Keyed ProbeRow
  pair : Keyed PairRow
  zone : Keyed ZoneRow
  general : GeneralRow
  deriving DecidableEq, Repr

/-- Empty tables: no rows, and a GENERAL row of defaults (R187). -/
def Tables.empty : Tables :=
  { poll := [], probe := [], pair := [], zone := [], general := {} }

/-- The five tables by name (R129). -/
inductive TableId where
  | poll
  | probe
  | pair
  | zone
  | general
  deriving DecidableEq, Repr

/-- The rows of one table: the working contents of a load sequence (R132), or one copy as READ_TABLE returns it. -/
inductive TableRows where
  | poll (rows : Keyed PollRow)
  | probe (rows : Keyed ProbeRow)
  | pair (rows : Keyed PairRow)
  | zone (rows : Keyed ZoneRow)
  | general (row : GeneralRow)
  deriving DecidableEq, Repr

/-- The staged copy of a table (R129). An OPEN copy's rows are the working contents of the load sequence. -/
inductive Staged (α : Type) where
  | none
  | opened
  | ready (rows : α)
  deriving DecidableEq, Repr

/-- The staged copies of the five tables (R129). -/
structure StagedTables where
  poll : Staged (Keyed PollRow) := .none
  probe : Staged (Keyed ProbeRow) := .none
  pair : Staged (Keyed PairRow) := .none
  zone : Staged (Keyed ZoneRow) := .none
  general : Staged GeneralRow := .none
  deriving DecidableEq, Repr

/-- An open load sequence (R132): its table and working contents, and the prior staged rows (absent for NONE). Its
inactivity timer is RUNNING exactly while it is open (R138). -/
structure LoadSequence where
  working : TableRows
  prior : Option TableRows
  deriving DecidableEq, Repr

/-- The methods of LOAD_OPEN (R133). -/
inductive LoadMethod where
  | replace
  | patch
  deriving DecidableEq, Repr

/-- Table Store. -/
structure TableStore where
  active : Tables
  staged : StagedTables
  load : Option LoadSequence
  pendingCommit : Option Tables
  deriving DecidableEq, Repr

/-! ### Trunk Interface (chapter 1) -/

/-- The outcomes of a line (R9). -/
inductive LineOutcome where
  | silent
  | collision
  | length
  | check
  | stray
  | marked
  | good
  deriving DecidableEq, Repr

/-- The kinds of a reply frame (R3). -/
inductive ReplyKind where
  | data
  | empty
  | fault
  | answer
  deriving DecidableEq, Repr

/-- A sample record as a DATA payload carries it: its slot byte, status byte and raw value (R195). -/
structure SampleRecord where
  slot : Nat
  status : Nat
  raw : Nat
  deriving DecidableEq, Repr

/-- The contents of a reply frame whose outcome is GOOD or MARKED (R3). -/
inductive Reply where
  | data (toggle : Bool) (records : List SampleRecord)
  | empty
  | fault (code : Nat)
  | answer (bytes : List Byte)
  deriving DecidableEq, Repr

/-- How a line has concluded (R9). A reply can be taken only from a MARKED or a GOOD line (R10). -/
inductive Conclusion where
  | silent
  | collision
  | length
  | check
  | stray
  | marked (reply : Reply)
  | good (reply : Reply)
  deriving DecidableEq, Repr

/-- A line during an exchange: listening, with activity seen or not (R7); a frame started before the reply timeout
(R8); or concluded. -/
inductive LineState where
  | listening (activitySeen : Bool)
  | started
  | concluded (c : Conclusion)
  deriving DecidableEq, Repr

/-- The kinds of a poll frame (R2). -/
inductive PollKind where
  | poll
  | relay
  deriving DecidableEq, Repr

/-- An exchange's stages: its visit has been made and its frame has not begun (R1), its frame is being sent, its reply
is awaited (R6). -/
inductive ExchangePhase where
  | due
  | sending
  | listening
  deriving DecidableEq, Repr

/-- The exchange in progress (R1, R2, R6, R8). -/
structure Exchange where
  kind : PollKind
  phase : ExchangePhase
  node : Nat
  replyTimeout : Nat
  acceptMarked : Bool
  toggle : Bool
  payload : List Byte
  timedOut : Bool
  lineA : LineState
  lineB : LineState
  deriving DecidableEq, Repr

/-- A Node State record (R17), keyed by its node address. The field defaults are the fresh values. -/
structure NodeRecord where
  quarantined : Bool := false
  skipRemaining : Nat := 0
  expectToggle : Bool := false
  activeLine : Line := .a
  otherOnly : Nat := 0
  failRun : Nat := 0
  lastOutcomeA : Option LineOutcome := none
  lastOutcomeB : Option LineOutcome := none
  lastReplyKind : Option ReplyKind := none
  lastFaultCode : Option Nat := none
  failTotalA : Nat := 0
  failTotalB : Nat := 0
  outOfStepTotal : Nat := 0
  deriving DecidableEq, Repr

/-- Trunk Interface. `dirA` and `dirB` are the direction controls (R1). -/
structure TrunkState where
  receiversOn : Bool
  dirA : Bool
  dirB : Bool
  exchange : Option Exchange
  nodes : Keyed NodeRecord
  deriving DecidableEq, Repr

/-! ### Poll Scheduler (chapter 2) -/

/-- The phases of PS (R22). -/
inductive PollPhase where
  | halted
  | walking
  | waiting
  deriving DecidableEq, Repr

/-- The cycle timer (R22), with the period a running timer runs for (R24). -/
inductive CycleTimer where
  | stopped
  | running (period : Nat)
  | expired
  deriving DecidableEq, Repr

/-- Poll Scheduler (R22). -/
structure PollState where
  phase : PollPhase
  cycle : Half
  timer : CycleTimer
  position : Option Nat
  overruns : Nat
  deriving DecidableEq, Repr

/-! ### Sample Intake (chapters 3 and 4) -/

/-- The qualities of a reading (R40). -/
inductive Quality where
  | none
  | good
  | clamped
  | forced
  | fault
  | stale
  deriving DecidableEq, Repr

/-- A reading (R39). The field defaults are those of a reading just created (R55, R57). -/
structure Reading where
  quality : Quality := .none
  value : Option Int := .none
  fresh : Nat := 0
  stamp : Option Half := .none
  line : Option Line := .none
  marked : Bool := false
  deriving DecidableEq, Repr

/-- The kinds of a force entry (R58). -/
inductive ForceKind where
  | substitute
  | pin
  deriving DecidableEq, Repr

/-- A Force List entry (R58), keyed by its channel. -/
structure Force where
  value : Int
  kind : ForceKind
  deriving DecidableEq, Repr

/-- Sample Intake. -/
structure IntakeState where
  readings : Keyed Reading
  forces : Keyed Force
  deriving DecidableEq, Repr

/-! ### Pair Evaluator (chapter 6) -/

/-- The judged states of a pair and the levels of a zone (R85, R109). -/
inductive Level where
  | clear
  | watch
  | near
  | wet
  deriving DecidableEq, Repr

/-- Why a pair is UNKNOWN (R86). -/
inductive Reason where
  | new
  | inputNone
  | inputFault
  | inputStale
  | skew
  | airRange
  | stopped
  deriving DecidableEq, Repr

/-- A pair's state: UNKNOWN with its reason, or judged with none (R85). -/
inductive RiskState where
  | unknown (reason : Reason)
  | judged (level : Level)
  deriving DecidableEq, Repr

/-- The input values of a pair's last computation (R85): they are present together. -/
structure PairInputs where
  ta : Int
  rh : Int
  ts : Int
  deriving DecidableEq, Repr

/-- A Pair Status record (R85). The field defaults are those of UNKNOWN(NEW) (R104). -/
structure PairRecord where
  state : RiskState := .unknown .new
  inputs : Option PairInputs := none
  lastTd : Option Int := none
  lastM : Option Int := none
  lastMp : Option Int := none
  dewLow : Bool := false
  trend : Bool := false
  lastEval : Option Half := none
  history : List Int := []
  riseRun : Nat := 0
  fallRun : Nat := 0
  deriving DecidableEq, Repr

/-- Pair Evaluator. -/
structure PairState where
  pairs : Keyed PairRecord
  deriving DecidableEq, Repr

/-! ### Zone Monitor (chapter 7) -/

/-- A zone's worst margin and the member that holds it (R109). -/
structure Worst where
  margin : Int
  pair : Nat
  deriving DecidableEq, Repr

/-- A Zone Status record (R109), keyed by its zone. -/
structure ZoneRecord where
  level : Level
  blind : Bool
  unknownCount : Nat
  clearCount : Nat
  watchCount : Nat
  nearCount : Nat
  wetCount : Nat
  worst : Option Worst
  deriving DecidableEq, Repr

/-- The published bank (R118). -/
structure Bank where
  publicationCycle : Option Half
  records : Keyed ZoneRecord
  deriving DecidableEq, Repr

/-- An Alert Queue entry (R112). -/
structure Alert where
  zone : Nat
  fromLevel : Level
  fromBlind : Bool
  nowLevel : Level
  nowBlind : Bool
  changes : Nat
  firstCycle : Half
  lastCycle : Half
  deriving DecidableEq, Repr

/-- The summary read sequence (R121). -/
structure Summary where
  isOpen : Bool
  nextRecord : Nat
  held : Nat
  broken : Bool
  deriving DecidableEq, Repr

/-- Zone Monitor. The Alert Queue's head is its oldest entry (R113). -/
structure ZoneState where
  zones : Keyed ZoneRecord
  bank : Bank
  alerts : List Alert
  summary : Summary
  deriving DecidableEq, Repr

/-! ### Relay Unit (chapter 9) -/

/-- A relay request (R151). -/
structure RelayRequest where
  tag : Nat
  node : Nat
  replyTimeout : Nat
  payload : List Byte
  deriving DecidableEq, Repr

/-- The outcomes of a relay (R156). -/
inductive RelayOutcome where
  | answered
  | nodeFault
  | noAnswer
  deriving DecidableEq, Repr

/-- A relay result (R157). -/
structure RelayResult where
  tag : Nat
  node : Nat
  outcome : RelayOutcome
  replyKind : Option ReplyKind
  line : Option Line
  outcomeA : LineOutcome
  outcomeB : LineOutcome
  faultCode : Option Nat
  payload : List Byte
  completionCycle : Half
  deriving DecidableEq, Repr

/-- Relay Unit (R151). The heads of the queue and of the results are their oldest. -/
structure RelayState where
  queue : List RelayRequest
  inFlight : Option RelayRequest
  results : List RelayResult
  deriving DecidableEq, Repr

/-! ### Mode Control and Configuration Store (chapter 11) -/

/-- The modes (R179). -/
inductive Mode where
  | start
  | idle
  | survey
  | stopping
  deriving DecidableEq, Repr

/-- The start reasons (R179). -/
inductive StartReason where
  | power
  | restart
  deriving DecidableEq, Repr

/-- Mode Control (R179). `restartAnswered` says that the response to the RESTART that is pending has been sent (R189). -/
structure ModeState where
  mode : Mode
  reason : StartReason
  restartPending : Bool
  restartAnswered : Bool
  deriving DecidableEq, Repr

/-- The store states (R181). -/
inductive StoreStatus where
  | empty
  | valid
  | damaged
  deriving DecidableEq, Repr

/-- What the non-volatile memory holds (R181, R185): nothing ever written, an image whose write has begun and not
ended, or bytes. -/
inductive StoredImage where
  | never
  | incomplete
  | bytes (bytes : List Byte)
  deriving DecidableEq, Repr

/-- Configuration Store (R181). A SAVE is in progress exactly when `saveWrite` holds the image it writes. -/
structure StoreState where
  image : StoredImage
  state : StoreStatus
  saveCount : Nat
  saveWrite : Option (List Byte)
  deriving DecidableEq, Repr

/-! ### Uplink Interface (chapter 10) -/

/-- The states of the uplink receiver (R165). -/
inductive Receiver where
  | off
  | waitIdle
  | ready
  | receiving
  | space
  | broken
  | responding
  | other
  deriving DecidableEq, Repr

/-- The status codes (R171). -/
inductive Status where
  | ok
  | badRequest
  | badLength
  | badField
  | busy
  | full
  | notFound
  | wrongMode
  | notOpen
  | broken
  | nothingStaged
  | checkFailed
  | noSlot
  deriving DecidableEq, Repr

/-- The attention flags of a response (R172), with the mode they carry. -/
structure Attention where
  alerts : Bool
  results : Bool
  loadOpen : Bool
  summaryOpen : Bool
  commitPending : Bool
  saving : Bool
  mode : Mode
  deriving DecidableEq, Repr

/-- A response as it is fixed at the handling of its request (R163, R168). -/
structure Response where
  address : Byte
  code : Byte
  status : Status
  attention : Attention
  payload : List Byte
  deriving DecidableEq, Repr

/-- Uplink Interface. `heldFrame` is the frame SPACE holds (R176), `response` the one not yet fully sent, `dir` the
direction control (R162). -/
structure UplinkState where
  receiver : Receiver
  heldFrame : Option (List Byte)
  errors : Nat
  overflow : Bool
  response : Option Response
  dir : Bool
  deriving DecidableEq, Repr

/-! ### The part -/

/-- The supply and the reset input (0.4, R192). -/
structure Supply where
  powered : Bool
  resetAsserted : Bool
  deriving DecidableEq, Repr

/-- The state of the part. `orderChoices` counts the boundaries at which the free order of `Config.commitFirst` has
been asked for; `pending` is the queue of commands, first in first out. Both are the model's own. -/
structure State where
  supply : Supply
  ti : TrunkState
  ps : PollState
  si : IntakeState
  pe : PairState
  zm : ZoneState
  tb : TableStore
  ru : RelayState
  ui : UplinkState
  mc : ModeState
  cs : StoreState
  orderChoices : Nat
  pending : List Instr
  deriving DecidableEq, Repr

/-- The state right after reset: the part has been powered on with a memory never written, has entered START (R186)
and has read its store (R187). The values are those of R21, R37, R57, R67, R107, R127, R150, R161, R178, R186 and
R187; the empty memory and the model's own fields are DESIGN CHOICE, unsafe (notes/assumptions/4.md, 3.md, 5.md). -/
def State.reset : State :=
  { supply := { powered := true, resetAsserted := false }
    ti := { receiversOn := false, dirA := false, dirB := false, exchange := none, nodes := [] }
    ps := { phase := .halted, cycle := 0, timer := .stopped, position := none, overruns := 0 }
    si := { readings := [], forces := [] }
    pe := { pairs := [] }
    zm := { zones := [], bank := { publicationCycle := none, records := [] }, alerts := []
            summary := { isOpen := false, nextRecord := 0, held := 0, broken := false } }
    tb := { active := Tables.empty, staged := {}, load := none, pendingCommit := none }
    ru := { queue := [], inFlight := none, results := [] }
    ui := { receiver := .off, heldFrame := none, errors := 0, overflow := false, response := none, dir := false }
    mc := { mode := .start, reason := .power, restartPending := false, restartAnswered := false }
    cs := { image := .never, state := .empty, saveCount := 0, saveWrite := none }
    orderChoices := 0
    pending := [] }

end Sys2Proof.Machine
end

