-- ==== Sys2Proof/Machine/Codes.lean ====
section
/-! DEFINITION. The codes of named values (R194), with the codes of absent values (R193). -/

namespace Sys2Proof.Machine

/-- The code of a poll kind (R194). -/
def PollKind.code : PollKind → Nat
  | .poll => 1
  | .relay => 2

/-- The code of a reply kind (R194). -/
def ReplyKind.code : ReplyKind → Nat
  | .data => 1
  | .empty => 2
  | .fault => 3
  | .answer => 4

/-- The reply kind of a code, none for an undefined kind (R195). -/
def ReplyKind.ofCode (n : Nat) : Option ReplyKind :=
  if n = 1 then some .data
  else if n = 2 then some .empty
  else if n = 3 then some .fault
  else if n = 4 then some .answer
  else none

/-- The code of a line outcome (R194). -/
def LineOutcome.code : LineOutcome → Nat
  | .silent => 0
  | .collision => 1
  | .length => 2
  | .check => 3
  | .stray => 4
  | .marked => 5
  | .good => 6

/-- The code of a line (R194). -/
def lineCode : Line → Nat
  | .a => 0
  | .b => 1

/-- The code of a probe kind (R194). -/
def ProbeKind.code : ProbeKind → Nat
  | .airTemp => 0
  | .airRh => 1
  | .surfaceTemp => 2

/-- The probe kind of a code. -/
def ProbeKind.ofCode (n : Nat) : Option ProbeKind :=
  if n = 0 then some .airTemp
  else if n = 1 then some .airRh
  else if n = 2 then some .surfaceTemp
  else none

/-- The code of a quality (R194). -/
def Quality.code : Quality → Nat
  | .none => 0
  | .good => 1
  | .clamped => 2
  | .forced => 3
  | .fault => 4
  | .stale => 5

/-- The code of a judged state or of a zone level (R194). -/
def Level.code : Level → Nat
  | .clear => 1
  | .watch => 2
  | .near => 3
  | .wet => 4

/-- The code of an UNKNOWN reason (R194). -/
def Reason.code : Reason → Nat
  | .new => 0
  | .inputNone => 1
  | .inputFault => 2
  | .inputStale => 3
  | .skew => 4
  | .airRange => 5
  | .stopped => 6

/-- The code of a pair state (R194). -/
def RiskState.code : RiskState → Nat
  | .unknown _ => 0
  | .judged l => l.code

/-- The code of a pair's reason in its 3-bit field, 7 when absent (R193, R199). -/
def RiskState.reasonCode : RiskState → Nat
  | .unknown r => r.code
  | .judged _ => 7

/-- The code of a force kind (R194). -/
def ForceKind.code : ForceKind → Nat
  | .substitute => 0
  | .pin => 1

/-- The force kind of a code. -/
def ForceKind.ofCode (n : Nat) : Option ForceKind :=
  if n = 0 then some .substitute else if n = 1 then some .pin else none

/-- The code of a table (R194). -/
def TableId.code : TableId → Nat
  | .poll => 0
  | .probe => 1
  | .pair => 2
  | .zone => 3
  | .general => 4

/-- The table of a code. -/
def TableId.ofCode (n : Nat) : Option TableId :=
  if n = 0 then some .poll
  else if n = 1 then some .probe
  else if n = 2 then some .pair
  else if n = 3 then some .zone
  else if n = 4 then some .general
  else none

/-- The code of a load method (R194). -/
def LoadMethod.code : LoadMethod → Nat
  | .replace => 0
  | .patch => 1

/-- The load method of a code. -/
def LoadMethod.ofCode (n : Nat) : Option LoadMethod :=
  if n = 0 then some .replace else if n = 1 then some .patch else none

/-- The code of a staged state (R194). -/
def Staged.code {α : Type} : Staged α → Nat
  | .none => 0
  | .opened => 1
  | .ready _ => 2

/-- The code of a mode (R194). START never appears in a response (R172) and has no code. -/
def Mode.code : Mode → Nat
  | .start => 0
  | .idle => 1
  | .survey => 2
  | .stopping => 3

/-- The code of a start reason (R194). -/
def StartReason.code : StartReason → Nat
  | .power => 0
  | .restart => 1

/-- The code of a store state (R194). -/
def StoreStatus.code : StoreStatus → Nat
  | .empty => 0
  | .valid => 1
  | .damaged => 2

/-- The code of a relay outcome (R194). -/
def RelayOutcome.code : RelayOutcome → Nat
  | .answered => 0
  | .nodeFault => 1
  | .noAnswer => 2

/-- The code of a status (R194). -/
def Status.code : Status → Nat
  | .ok => 0x00
  | .badRequest => 0x01
  | .badLength => 0x02
  | .badField => 0x03
  | .busy => 0x04
  | .full => 0x05
  | .notFound => 0x06
  | .wrongMode => 0x07
  | .notOpen => 0x08
  | .broken => 0x09
  | .nothingStaged => 0x0A
  | .checkFailed => 0x0B
  | .noSlot => 0x0C

/-- The code of a named value that may be absent, FFh when it is (R193). -/
def codeOr255 {α : Type} (f : α → Nat) : Option α → Nat
  | none => 0xFF
  | some x => f x

/-- The code of a line outcome in a nibble, Fh when it is absent (R193). -/
def outcomeNibble : Option LineOutcome → Nat
  | none => 0xF
  | some o => o.code

end Sys2Proof.Machine
end

