-- ==== Sys2Proof/Machine/Ops.lean ====
section
/-! DEFINITION. The named operations over keyed collections and over the blocks of the state. -/

namespace Sys2Proof.Machine

/-! ### Keyed collections -/

/-- The form of a keyed collection: indices strictly rising, so equal collections are equal data. -/
abbrev Keyed.wf {α : Type} (t : Keyed α) : Prop := t.Pairwise (fun x y => x.1 < y.1)

/-- The row at an index, or none where the index holds none (R129). -/
def Keyed.get {α : Type} : Keyed α → Nat → Option α
  | [], _ => none
  | (j, v) :: t, k => if j = k then some v else Keyed.get t k

/-- The collection with a row at an index, replacing any row that was there (R134). -/
def Keyed.put {α : Type} : Keyed α → Nat → α → Keyed α
  | [], k, v => [(k, v)]
  | (j, w) :: t, k, v =>
    if k < j then (k, v) :: (j, w) :: t
    else if k = j then (k, v) :: t
    else (j, w) :: Keyed.put t k v

/-- The collection with no row at an index (R134). -/
def Keyed.del {α : Type} (t : Keyed α) (k : Nat) : Keyed α := t.filter (fun e => e.1 != k)

/-- The collection with the row at an index changed, if there is one. -/
def Keyed.modify {α : Type} (t : Keyed α) (k : Nat) (f : α → α) : Keyed α :=
  t.map (fun e => if e.1 = k then (e.1, f e.2) else e)

/-- The collection with every row changed. -/
def Keyed.mapRows {α β : Type} (t : Keyed α) (f : Nat → α → β) : Keyed β :=
  t.map (fun e => (e.1, f e.1 e.2))

/-- The indices that hold a row, ascending. -/
def Keyed.keys {α : Type} (t : Keyed α) : List Nat := t.map (fun e => e.1)

/-- A counter that stays at its maximum once it reaches it (0.6). -/
def satSucc (top n : Nat) : Nat := if n < top then n + 1 else top

/-! ### The blocks of the state -/

/-- The state with TI's part replaced. -/
def State.setTi (s : State) (x : TrunkState) : State := { s with ti := x }

/-- The state with PS's part replaced. -/
def State.setPs (s : State) (x : PollState) : State := { s with ps := x }

/-- The state with SI's part replaced. -/
def State.setSi (s : State) (x : IntakeState) : State := { s with si := x }

/-- The state with PE's part replaced. -/
def State.setPe (s : State) (x : PairState) : State := { s with pe := x }

/-- The state with ZM's part replaced. -/
def State.setZm (s : State) (x : ZoneState) : State := { s with zm := x }

/-- The state with TB's part replaced. -/
def State.setTb (s : State) (x : TableStore) : State := { s with tb := x }

/-- The state with RU's part replaced. -/
def State.setRu (s : State) (x : RelayState) : State := { s with ru := x }

/-- The state with UI's part replaced. -/
def State.setUi (s : State) (x : UplinkState) : State := { s with ui := x }

/-- The state with MC's part replaced. -/
def State.setMc (s : State) (x : ModeState) : State := { s with mc := x }

/-- The state with CS's part replaced. -/
def State.setCs (s : State) (x : StoreState) : State := { s with cs := x }

/-- The state with the supply and the reset input replaced. -/
def State.setSupply (s : State) (x : Supply) : State := { s with supply := x }

/-- The state with the count of free order choices advanced (notes/assumptions/5.md). -/
def State.nextOrder (s : State) : State := { s with orderChoices := s.orderChoices + 1 }

/-- The part takes events: it has its supply and its reset input is released (R185, R192). -/
def State.live (s : State) : Bool := s.supply.powered && !s.supply.resetAsserted

/-- An event of the part: it is taken when the part is live, and nothing changes when it is not (R192). -/
def event (f : State → State) (s : State) : Host.Outcome State Fault Refusal :=
  .next (if s.live then f s else s)

end Sys2Proof.Machine
end

