-- ==== Sys2Proof/Machine/Operands.lean ====
section
/-! DEFINITION. The rows of the tables as bytes (R197), the checks of one row (R131), and LOAD_ROWS entries. -/

namespace Sys2Proof.Machine

/-! ### The rows that are well formed (R131) -/

/-- The lower end of a kind's range (R38). -/
def ProbeKind.lowEnd : ProbeKind → Int
  | .airTemp => -4000
  | .airRh => 0
  | .surfaceTemp => -4000

/-- The upper end of a kind's range (R38). -/
def ProbeKind.highEnd : ProbeKind → Int
  | .airTemp => 6000
  | .airRh => 10000
  | .surfaceTemp => 6000

/-- A value within a kind's range (R38). -/
def ProbeKind.inRange (k : ProbeKind) (v : Int) : Bool := decide (k.lowEnd ≤ v) && decide (v ≤ k.highEnd)

/-- A node address, 1..126 (R2). -/
def nodeInRange (n : Nat) : Bool := decide (1 ≤ n) && decide (n ≤ 126)

/-- A reply timeout in ms: 10..250 in steps of 10 (R131, R152). -/
def timeoutInRange (t : Nat) : Bool := decide (10 ≤ t) && decide (t ≤ 250) && decide (t % 10 = 0)

/-- A well-formed POLL row (R131). -/
def PollRow.wellFormed : PollRow → Bool
  | .poll node replyTimeout _ => nodeInRange node && timeoutInRange replyTimeout
  | .relay => true

/-- A well-formed PROBE row (R131). -/
def ProbeRow.wellFormed (r : ProbeRow) : Bool :=
  nodeInRange r.node && decide (r.slot ≤ 3) && decide (r.rawLo ≤ 65535) && decide (r.rawHi ≤ 65535)
    && decide (r.rawLo ≠ r.rawHi) && r.kind.inRange r.refLo && r.kind.inRange r.refHi
    && decide (1 ≤ r.freshCycles) && decide (r.freshCycles ≤ 255)

/-- A well-formed PAIR row (R131). -/
def PairRow.wellFormed (r : PairRow) : Bool :=
  decide (r.airT ≤ 127) && decide (r.airRh ≤ 127) && decide (r.surface ≤ 127) && decide (r.zone ≤ 31)
    && decide (r.skewLimit ≤ 7)

/-- A zone threshold, −2000..2000 (R84). -/
def thresholdInRange (t : Int) : Bool := decide (-2000 ≤ t) && decide (t ≤ 2000)

/-- A well-formed ZONE row (R131). -/
def ZoneRow.wellFormed (r : ZoneRow) : Bool :=
  thresholdInRange r.watchAt && thresholdInRange r.nearAt && thresholdInRange r.wetAt
    && decide (r.hyst ≤ 200) && decide (1 ≤ r.riseCount) && decide (r.riseCount ≤ 15)
    && decide (1 ≤ r.fallCount) && decide (r.fallCount ≤ 15) && decide (r.lookahead ≤ 32)
    && decide (r.blindLimit ≤ 63) && decide (r.nearAt < r.watchAt) && decide (r.wetAt < r.nearAt)

/-- A well-formed GENERAL row (R130, R131). -/
def GeneralRow.wellFormed (r : GeneralRow) : Bool :=
  decide (1 ≤ r.uplinkAddress) && decide (r.uplinkAddress ≤ 247)
    && decide (500 ≤ r.cyclePeriod) && decide (r.cyclePeriod ≤ 60000) && decide (r.cyclePeriod % 100 = 0)
    && decide (2 ≤ r.quarantineAfter) && decide (r.quarantineAfter ≤ 15)
    && decide (2 ≤ r.quarantineInterval) && decide (r.quarantineInterval ≤ 64)
    && decide (1 ≤ r.lineSwitchAfter) && decide (r.lineSwitchAfter ≤ 15)

/-! ### Rows as bytes (R197) -/

/-- The row bytes of a POLL row. -/
def PollRow.bytes : PollRow → List Byte
  | .poll node replyTimeout acceptMarked => [byte 1, byte node, byte (replyTimeout / 10), byte (bitAt 0 acceptMarked)]
  | .relay => [byte 2, byte 0, byte 0, byte 0]

/-- The row bytes of a PROBE row. -/
def ProbeRow.bytes (r : ProbeRow) : List Byte :=
  [byte r.node, byte r.slot, byte r.kind.code] ++ natBytes r.rawLo ++ natBytes r.rawHi
    ++ intBytes r.refLo ++ intBytes r.refHi ++ [byte r.freshCycles]

/-- The row bytes of a PAIR row. -/
def PairRow.bytes (r : PairRow) : List Byte :=
  [byte r.airT, byte r.airRh, byte r.surface, byte r.zone, byte r.skewLimit]

/-- The row bytes of a ZONE row. -/
def ZoneRow.bytes (r : ZoneRow) : List Byte :=
  intBytes r.watchAt ++ intBytes r.nearAt ++ intBytes r.wetAt
    ++ [byte r.hyst, byte r.riseCount, byte r.fallCount, byte r.lookahead, byte r.blindLimit]

/-- The row bytes of the GENERAL row. -/
def GeneralRow.bytes (r : GeneralRow) : List Byte :=
  [byte r.uplinkAddress] ++ natBytes (r.cyclePeriod / 100)
    ++ [byte (bitAt 0 r.autoSurvey), byte r.quarantineAfter, byte r.quarantineInterval, byte r.lineSwitchAfter]

/-- A byte that carries a flag: 0 or 1, none for any other value (R193, R197). -/
def flagOf (b : Byte) : Option Bool := if b.toNat = 0 then some false else if b.toNat = 1 then some true else none

/-- The row a check accepts. -/
def keepIf {α : Type} (ok : α → Bool) (r : α) : Option α := if ok r then some r else none

/-- The well-formed POLL row that row bytes spell, none for any other bytes (R135, R197). The last three bytes of a
RELAY row are unused and disregarded (R193). -/
def PollRow.ofBytes : List Byte → Option PollRow
  | [kind, node, timeout, accept] =>
    if kind.toNat = 1 then
      match flagOf accept with
      | none => none
      | some a => keepIf PollRow.wellFormed (.poll node.toNat (10 * timeout.toNat) a)
    else if kind.toNat = 2 then some .relay
    else none
  | _ => none

/-- The well-formed PROBE row that row bytes spell. -/
def ProbeRow.ofBytes : List Byte → Option ProbeRow
  | [node, slot, kind, rl1, rl0, rh1, rh0, fl1, fl0, fh1, fh0, fresh] =>
    match ProbeKind.ofCode kind.toNat with
    | none => none
    | some k => keepIf ProbeRow.wellFormed
        { node := node.toNat, slot := slot.toNat, kind := k, rawLo := natOf rl1 rl0, rawHi := natOf rh1 rh0
          refLo := intOf fl1 fl0, refHi := intOf fh1 fh0, freshCycles := fresh.toNat }
  | _ => none

/-- The well-formed PAIR row that row bytes spell. -/
def PairRow.ofBytes : List Byte → Option PairRow
  | [airT, airRh, surface, zone, skew] => keepIf PairRow.wellFormed
      { airT := airT.toNat, airRh := airRh.toNat, surface := surface.toNat, zone := zone.toNat, skewLimit := skew.toNat }
  | _ => none

/-- The well-formed ZONE row that row bytes spell. -/
def ZoneRow.ofBytes : List Byte → Option ZoneRow
  | [w1, w0, n1, n0, t1, t0, hyst, rise, fall, look, blind] => keepIf ZoneRow.wellFormed
      { watchAt := intOf w1 w0, nearAt := intOf n1 n0, wetAt := intOf t1 t0, hyst := hyst.toNat
        riseCount := rise.toNat, fallCount := fall.toNat, lookahead := look.toNat, blindLimit := blind.toNat }
  | _ => none

/-- The well-formed GENERAL row that row bytes spell. -/
def GeneralRow.ofBytes : List Byte → Option GeneralRow
  | [address, p1, p0, auto, after, interval, switch] =>
    match flagOf auto with
    | none => none
    | some a => keepIf GeneralRow.wellFormed
        { uplinkAddress := address.toNat, cyclePeriod := 100 * natOf p1 p0, autoSurvey := a
          quarantineAfter := after.toNat, quarantineInterval := interval.toNat, lineSwitchAfter := switch.toNat }
  | _ => none

/-! ### The five tables alike -/

/-- The number of a table's indices (R129). -/
def TableId.capacity : TableId → Nat
  | .poll => Config.pollRows
  | .probe => Config.channels
  | .pair => Config.pairs
  | .zone => Config.zones
  | .general => 1

/-- The number of row bytes of a table (R197). -/
def TableId.rowSize : TableId → Nat
  | .poll => 4
  | .probe => 12
  | .pair => 5
  | .zone => 11
  | .general => 7

/-- The table whose rows these are. -/
def TableRows.table : TableRows → TableId
  | .poll _ => .poll
  | .probe _ => .probe
  | .pair _ => .pair
  | .zone _ => .zone
  | .general _ => .general

/-- The number of rows. -/
def TableRows.count : TableRows → Nat
  | .poll t => t.length
  | .probe t => t.length
  | .pair t => t.length
  | .zone t => t.length
  | .general _ => 1

/-- The row bytes at an index, none where the index holds no row (R149). -/
def TableRows.rowBytes (t : TableRows) (i : Nat) : Option (List Byte) :=
  match t with
  | .poll t => (t.get i).map PollRow.bytes
  | .probe t => (t.get i).map ProbeRow.bytes
  | .pair t => (t.get i).map PairRow.bytes
  | .zone t => (t.get i).map ZoneRow.bytes
  | .general r => if i = 0 then some r.bytes else none

/-- Puts the row that row bytes spell at an index (R134); none when the row is not well formed (R131) or the index
lies outside the table (R129). -/
def TableRows.putBytes (t : TableRows) (i : Nat) (row : List Byte) : Option TableRows :=
  if t.table.capacity ≤ i then none
  else
    match t with
    | .poll t => (PollRow.ofBytes row).map (fun r => .poll (t.put i r))
    | .probe t => (ProbeRow.ofBytes row).map (fun r => .probe (t.put i r))
    | .pair t => (PairRow.ofBytes row).map (fun r => .pair (t.put i r))
    | .zone t => (ZoneRow.ofBytes row).map (fun r => .zone (t.put i r))
    | .general _ => (GeneralRow.ofBytes row).map .general

/-- Deletes the row at an index (R134); none when the index lies outside the table or the table is GENERAL (R135). -/
def TableRows.delete (t : TableRows) (i : Nat) : Option TableRows :=
  if t.table.capacity ≤ i then none
  else
    match t with
    | .poll t => some (.poll (t.del i))
    | .probe t => some (.probe (t.del i))
    | .pair t => some (.pair (t.del i))
    | .zone t => some (.zone (t.del i))
    | .general _ => none

/-! ### LOAD_ROWS entries (R134, R135, R197) -/

/-- Cuts bytes into pieces of `n`, none when they do not divide into whole pieces. -/
def chunks (n : Nat) : Nat → List Byte → Option (List (List Byte))
  | _, [] => some []
  | 0, _ :: _ => none
  | fuel + 1, bs => if bs.length < n then none else (chunks n fuel (bs.drop n)).map (fun cs => bs.take n :: cs)

/-- The entries of a LOAD_ROWS payload: 1..16 whole entries of the table's layout, none for any other payload (R135). -/
def loadEntries (t : TableId) (payload : List Byte) : Option (List (List Byte)) :=
  match chunks (t.rowSize + 2) payload.length payload with
  | some (e :: es) => if (e :: es).length ≤ 16 then some (e :: es) else none
  | _ => none

/-- Applies one entry to the working contents, none when the entry fails (R134, R135, R197). -/
def TableRows.applyEntry (t : TableRows) : List Byte → Option TableRows
  | op :: index :: row =>
    if op.toNat = 1 then t.putBytes index.toNat row
    else if op.toNat = 2 then t.delete index.toNat
    else none
  | _ => none

/-- Applies entries in the order carried. Where one fails, its position is given and nothing is applied (R135). -/
def TableRows.applyEntries (t : TableRows) (position : Nat) : List (List Byte) → Except Nat TableRows
  | [] => .ok t
  | e :: es =>
    match t.applyEntry e with
    | none => .error position
    | some t' => t'.applyEntries (position + 1) es

end Sys2Proof.Machine
end

