-- ==== Sys2Proof/Machine/Psychro.lean ====
section
/-! DEFINITION. The Psychrometric Unit (chapter 5): exact integer arithmetic from a pair's inputs to its margin and
projected margin, each division rounded as its stage states (R81). Pressures are in tenths of a pascal. -/

namespace Sys2Proof.Machine

/-- The fixed saturation table E[0..11] in whole pascals (R68). -/
def saturationTable : List Nat := [287, 422, 611, 872, 1226, 1702, 2333, 3160, 4234, 5613, 7367, 9580]

/-- 10·E[k], the pressure at knot `k`. -/
def knot (k : Nat) : Int := 10 * (saturationTable.getD k 0 : Nat)

/-- Tk, the temperature of knot `k` (R68). -/
def knotTemp (k : Nat) : Int := -1000 + 500 * k

/-- 10·(E[k+1] − E[k]), the rise of interval `k`. -/
def knotRise (k : Nat) : Int := knot (k + 1) - knot k

/-- Stage 1: the air temperatures the part judges (R72). -/
def airInRange (ta : Int) : Bool := decide (-1000 ≤ ta) && decide (ta ≤ 4500)

/-- The interval of an air temperature in stage 2 (R73). -/
def satInterval (ta : Int) : Nat := min 10 ((ta + 1000) / 500).toNat

/-- Stage 2: the saturation pressure es10 at an air temperature (R73). -/
def satPressure (ta : Int) : Int :=
  let k := satInterval ta
  knot k + (2 * knotRise k * (ta - knotTemp k) + 500) / 1000

/-- Stage 3: the vapour pressure e10 (R74). -/
def vapourPressure (es10 rh : Int) : Int := (es10 * rh + 5000) / 10000

/-- The greatest index of a knot at or below a vapour pressure (R76). -/
def lookupKnot (e10 : Int) : Nat := (List.range 12).foldl (fun j k => if knot k ≤ e10 then k else j) 0

/-- The flag DEW_LOW: the vapour pressure lies below the lowest knot (R75). -/
def dewIsLow (e10 : Int) : Bool := decide (e10 < 2870)

/-- Stage 4: the inverse lookup (R75, R76). -/
def dewLookup (e10 : Int) : Int :=
  if dewIsLow e10 then -1000
  else
    let j := lookupKnot e10
    if j = 11 then 4500
    else knotTemp j + (2 * (500 * (e10 - knot j)) + knotRise j) / (2 * knotRise j)

/-- The dew point of air at `ta` and `rh`: stages 2 to 5 (R73 to R77). -/
def dewPoint (ta rh : Int) : Int := min (dewLookup (vapourPressure (satPressure ta) rh)) ta

/-- The DEW_LOW flag of air at `ta` and `rh` (R75). -/
def dewLowFlag (ta rh : Int) : Bool := dewIsLow (vapourPressure (satPressure ta) rh)

/-- Limits a value to a range, both ends included. -/
def clampTo (lo hi v : Int) : Int := if v < lo then lo else if hi < v then hi else v

/-- Stage 7: the projected margin, absent unless the history holds 3 margins and the lookahead is above 0 (R79, R80). -/
def projectedMargin (m : Int) (history : List Int) (lookahead : Nat) : Option Int :=
  match history with
  | [] => none
  | oldest :: _ =>
    if 3 ≤ history.length ∧ 0 < lookahead then
      some (clampTo (-9999) 9999 (m + ((m - oldest) * lookahead).tdiv history.length))
    else none

/-- The result of a computation (R71). The inputs it carries are those the caller gave. -/
inductive Computation where
  | airRange
  | computed (td m : Int) (mp : Option Int) (dewLow : Bool)
  deriving DecidableEq, Repr

/-- A computation of PU (R70): stages 1 to 7 over a pair's three inputs, its history before the present margin, and
its zone's lookahead. -/
def compute (x : PairInputs) (history : List Int) (lookahead : Nat) : Computation :=
  if airInRange x.ta then
    let td := dewPoint x.ta x.rh
    let m := x.ts - td
    .computed td m (projectedMargin m history lookahead) (dewLowFlag x.ta x.rh)
  else .airRange

end Sys2Proof.Machine
end

