-- ==== Sys2Proof/Machine/Zones.lean ====
section
/-! DEFINITION. The Zone Monitor (chapter 7): recompute, alerts, publication and the summary read sequence. -/

namespace Sys2Proof.Machine

/-- The severity of a level: CLEAR, WATCH, NEAR, WET (R85). -/
def Level.rank : Level → Nat
  | .clear => 0
  | .watch => 1
  | .near => 2
  | .wet => 3

/-- The more severe of two levels. -/
def Level.max (x y : Level) : Level := if x.rank < y.rank then y else x

/-- The judged level of a pair, none while it is UNKNOWN. -/
def RiskState.level? : RiskState → Option Level
  | .unknown _ => none
  | .judged l => some l

/-- The member pairs of a zone with their records, ascending: the pairs whose active row names it (R108). -/
def members (rows : Keyed PairRow) (pairs : Keyed PairRecord) (zone : Nat) : List (Nat × PairRecord) :=
  rows.filterMap fun e => if e.2.zone = zone then (pairs.get e.1).map (fun r => (e.1, r)) else none

/-- The number of members in a state (R110). -/
def countState (ms : List (Nat × PairRecord)) (l : Option Level) : Nat :=
  ms.countP fun e => e.2.state.level? == l

/-- The smaller of the worst margin so far and a member's last_m: the earlier member keeps a tie (R110). -/
def worseOf (w : Option Worst) (pair : Nat) (m : Int) : Option Worst :=
  match w with
  | none => some { margin := m, pair := pair }
  | some w => if m < w.margin then some { margin := m, pair := pair } else some w

/-- The worst margin among the members that are not UNKNOWN, and its pair (R110). -/
def worstOf (ms : List (Nat × PairRecord)) : Option Worst :=
  ms.foldl (fun w e => if e.2.state.level?.isSome then
    match e.2.lastM with
    | some m => worseOf w e.1 m
    | none => w
    else w) none

/-- The Zone Status record of a zone as a recompute sets it (R110). -/
def recompute (blindLimit : Nat) (ms : List (Nat × PairRecord)) : ZoneRecord :=
  { level := (ms.filterMap fun e => e.2.state.level?).foldl Level.max .clear
    blind := decide (blindLimit < countState ms none)
    unknownCount := countState ms none
    clearCount := countState ms (some .clear)
    watchCount := countState ms (some .watch)
    nearCount := countState ms (some .near)
    wetCount := countState ms (some .wet)
    worst := worstOf ms }

/-- The record a recompute of a zone gives in a state, under the active PAIR table and the zone's active row (R110). -/
def State.zoneRecord (s : State) (zone : Nat) (row : ZoneRow) : ZoneRecord :=
  recompute row.blindLimit (members s.tb.active.pair s.pe.pairs zone)

/-- Records an alert (R112): a zone's entry is updated in place, and a zone that has none gets one at the tail. -/
def recordAlert (cycle : Half) (zone : Nat) (before after : ZoneRecord) (alerts : List Alert) : List Alert :=
  if alerts.any (fun a => a.zone == zone) then
    alerts.map fun a =>
      if a.zone = zone then
        { a with nowLevel := after.level, nowBlind := after.blind, changes := satSucc 255 a.changes, lastCycle := cycle }
      else a
  else
    alerts ++ [{ zone := zone, fromLevel := before.level, fromBlind := before.blind, nowLevel := after.level
                 nowBlind := after.blind, changes := 1, firstCycle := cycle, lastCycle := cycle }]

/-- Records an alert when the level or the blind flag differs (R111). -/
def alertIfMoved (cycle : Half) (zone : Nat) (before after : ZoneRecord) (alerts : List Alert) : List Alert :=
  if before.level = after.level ∧ before.blind = after.blind then alerts
  else recordAlert cycle zone before after alerts

/-- A notice from the Pair Evaluator: the zone is recomputed, and an alert is recorded where it has moved (R111). -/
def zoneNotice (zone : Nat) (s : State) : State :=
  match s.tb.active.zone.get zone, s.zm.zones.get zone with
  | some row, some before =>
    let after := s.zoneRecord zone row
    s.setZm { s.zm with
      zones := s.zm.zones.put zone after
      alerts := alertIfMoved s.ps.cycle zone before after s.zm.alerts }
  | _, _ => s

/-- The Zone Monitor's part in the taking of a commit (R116): records and alerts of deleted zones go, records of added
zones are made, and every kept zone is recomputed, with an alert where it has moved. -/
def commitZones (s : State) : State :=
  let rows := s.tb.active.zone
  let kept := s.zm.alerts.filter fun a => (rows.get a.zone).isSome
  let alerts := rows.foldl (fun acc e =>
    match s.zm.zones.get e.1 with
    | some before => alertIfMoved s.ps.cycle e.1 before (s.zoneRecord e.1 e.2) acc
    | none => acc) kept
  s.setZm { s.zm with zones := rows.mapRows s.zoneRecord, alerts := alerts }

/-- A publication: the bank takes the live Zone Status records and the current cycle (R118). -/
def publish (s : State) : State :=
  s.setZm { s.zm with bank := { publicationCycle := some s.ps.cycle, records := s.zm.zones } }

/-- The close of an open summary read sequence (R126): CLOSED, then any deferred publication, then held count 0. -/
def closeSummary (s : State) : State :=
  let deferred := decide (0 < s.zm.summary.held)
  let s := s.setZm { s.zm with summary := { s.zm.summary with isOpen := false, nextRecord := 0 } }
  let s := if deferred then publish s else s
  s.setZm { s.zm with summary := { s.zm.summary with held := 0 } }

/-- Sets the broken marker (R121). -/
def markBroken (s : State) : State :=
  s.setZm { s.zm with summary := { s.zm.summary with broken := true } }

/-- The close of a sequence that a line break or the change to IDLE finds open, which sets the broken marker (R125). -/
def breakSummary (s : State) : State :=
  if s.zm.summary.isOpen then markBroken (closeSummary s) else s

/-- The Zone Monitor's part in a cycle completion: it publishes (R119), defers the publication while a sequence is open
(R119), or breaks the sequence and publishes (R120). -/
def zoneCompletion (s : State) : State :=
  if s.zm.summary.isOpen then
    if s.mc.mode = .stopping ∨ Config.holdLimit ≤ s.zm.summary.held then
      publish (s.setZm { s.zm with
        summary := { isOpen := false, nextRecord := 0, held := 0, broken := true } })
    else s.setZm { s.zm with summary := { s.zm.summary with held := s.zm.summary.held + 1 } }
  else publish s

end Sys2Proof.Machine
end

