-- ==== Sys2Proof/Machine/Pairs.lean ====
section
/-! DEFINITION. The Pair Evaluator (chapter 6): evaluation, the risk state machine, drops, and its part in a commit. -/

namespace Sys2Proof.Machine

/-- A usable reading's quality (R40). -/
def Quality.usable : Quality → Bool
  | .good => true
  | .clamped => true
  | .forced => true
  | .none => false
  | .fault => false
  | .stale => false

/-- The reading of a channel; a channel without one reads as a reading just created (notes/assumptions/12.md). -/
def State.reading (s : State) (channel : Nat) : Reading := (s.si.readings.get channel).getD {}

/-- The active ZONE row of a zone (R84); a zone without one reads as the defaults (notes/assumptions/12.md). -/
def State.zoneRow (s : State) (zone : Nat) : ZoneRow := (s.tb.active.zone.get zone).getD {}

/-- The channels of a pair in the order of the input check: air_t, air_rh, surface (R91). -/
def PairRow.channels (r : PairRow) : List Nat := [r.airT, r.airRh, r.surface]

/-- The reason for a quality that is not usable (R91). -/
def Quality.reason? : Quality → Option Reason
  | .none => some .inputNone
  | .fault => some .inputFault
  | .stale => some .inputStale
  | .good => Option.none
  | .clamped => Option.none
  | .forced => Option.none

/-- The input check: the reason of the first input that is not usable (R91). -/
def inputCheck (s : State) (row : PairRow) : Option Reason :=
  row.channels.findSome? fun c => (s.reading c).quality.reason?

/-- The age of a reading in cycles, modulo 65536 (R92). -/
def readingAge (cycle : Half) (r : Reading) : Nat := (cycle - r.stamp.getD 0).toNat

/-- The skew check fails: an air reading is older than skew_limit (R92). -/
def skewed (s : State) (row : PairRow) : Bool :=
  decide (row.skewLimit < readingAge s.ps.cycle (s.reading row.airT))
    || decide (row.skewLimit < readingAge s.ps.cycle (s.reading row.airRh))

/-- The inputs handed to PU (R70, R93). -/
def pairInputs (s : State) (row : PairRow) : PairInputs :=
  { ta := (s.reading row.airT).value.getD 0
    rh := (s.reading row.airRh).value.getD 0
    ts := (s.reading row.surface).value.getD 0 }

/-- A class: the margin against the thresholds raised by `raise`, and the projection against near_at (R94, R95). -/
def classify (z : ZoneRow) (raise : Int) (m : Int) (mp : Option Int) : Level :=
  if m ≤ z.wetAt + raise then .wet
  else if m ≤ z.nearAt + raise then .near
  else if m ≤ z.watchAt + raise then .watch
  else if mp.any (fun p => decide (p ≤ z.nearAt)) then .watch
  else .clear

/-- The trend flag: the projection alone made the class WATCH (R94). -/
def trendFlag (z : ZoneRow) (m : Int) (mp : Option Int) : Bool :=
  decide (classify z 0 m mp = .watch) && decide (z.watchAt < m)

/-- The state machine of one COMPUTED evaluation (R96 to R99): the level and the two runs after it. -/
def riskStep (z : ZoneRow) (before : RiskState) (riseRun fallRun : Nat) (m : Int) (mp : Option Int) : Level × Nat × Nat :=
  let c := classify z 0 m mp
  match before with
  | .unknown _ => (c, 0, 0)
  | .judged l =>
    if l.rank < c.rank then
      if z.riseCount ≤ riseRun + 1 then (c, 0, 0) else (l, riseRun + 1, 0)
    else if c.rank < l.rank then
      let ch := classify z z.hyst m mp
      if ch.rank < l.rank then
        if z.fallCount ≤ fallRun + 1 then (ch, 0, 0) else (l, 0, fallRun + 1)
      else (l, 0, 0)
    else (l, 0, 0)

/-- Pushes a margin: it joins as the newest, and a full history loses its oldest (R87). -/
def pushMargin (history : List Int) (m : Int) : List Int :=
  if history.length < Config.historyLength then history ++ [m] else history.tail ++ [m]

/-- UNKNOWN(NEW): figures absent, flags clear, last_eval_cycle absent, history empty, runs 0 (R104, R107). -/
def PairRecord.new : PairRecord := {}

/-- A pair made UNKNOWN: history cleared and both runs 0, the figures kept (R101, R102, R103). -/
def PairRecord.toUnknown (r : PairRecord) (reason : Reason) : PairRecord :=
  { r with state := .unknown reason, history := [], riseRun := 0, fallRun := 0 }

/-- The record after an evaluation (R91 to R101). -/
def evaluated (s : State) (row : PairRow) (r : PairRecord) : PairRecord :=
  match inputCheck s row with
  | some reason => { r.toUnknown reason with lastEval := some s.ps.cycle }
  | none =>
    if skewed s row then { r.toUnknown .skew with lastEval := some s.ps.cycle }
    else
      let z := s.zoneRow row.zone
      let x := pairInputs s row
      match compute x r.history z.lookahead with
      | .airRange =>
        { r.toUnknown .airRange with
          inputs := some x, lastTd := none, lastM := none, lastMp := none
          dewLow := false, trend := false, lastEval := some s.ps.cycle }
      | .computed td m mp dewLow =>
        let n := riskStep z r.state r.riseRun r.fallRun m mp
        { state := .judged n.1, riseRun := n.2.1, fallRun := n.2.2
          inputs := some x, lastTd := some td, lastM := some m, lastMp := mp
          dewLow := dewLow, trend := trendFlag z m mp
          lastEval := some s.ps.cycle, history := pushMargin r.history m }

/-- Writes a pair's record and gives the Zone Monitor its notice (R105). -/
def writePair (pair : Nat) (row : PairRow) (r : PairRecord) (s : State) : State :=
  zoneNotice row.zone (s.setPe { s.pe with pairs := s.pe.pairs.put pair r })

/-- Evaluates a pair whose surface is in the updated list (R90). -/
def evaluatePair (updated : List Nat) (s : State) (e : Nat × PairRow) : State :=
  if updated.contains e.2.surface then
    match s.pe.pairs.get e.1 with
    | some r => writePair e.1 e.2 (evaluated s e.2 r) s
    | none => s
  else s

/-- The reason a drop gives for a lost channel's quality (R102). -/
def dropReason : Quality → Reason
  | .stale => .inputStale
  | .fault => .inputFault
  | .none => .inputNone
  | .good => .inputFault
  | .clamped => .inputFault
  | .forced => .inputFault

/-- Drops a judged pair with a reason and gives the notice; a pair already UNKNOWN keeps every field (R102, R103). -/
def dropPair (pair : Nat) (row : PairRow) (reason : Reason) (s : State) : State :=
  match s.pe.pairs.get pair with
  | some r =>
    match r.state with
    | .judged _ => writePair pair row (r.toUnknown reason) s
    | .unknown _ => s
  | none => s

/-- Drops a pair that uses a channel of the lost list, with the reason of the first of its inputs in it (R102). -/
def dropLost (lost : List (Nat × Quality)) (s : State) (e : Nat × PairRow) : State :=
  match e.2.channels.findSome? (fun c => lost.lookup c) with
  | some q => dropPair e.1 e.2 (dropReason q) s
  | none => s

/-- The handling of a notice from Sample Intake: the lost list, then the updated list, pairs ascending (R89). -/
def pairNotice (lost : List (Nat × Quality)) (updated : List Nat) (s : State) : State :=
  let s := s.tb.active.pair.foldl (dropLost lost) s
  s.tb.active.pair.foldl (evaluatePair updated) s

/-- The stop: every judged pair becomes UNKNOWN(STOPPED), ascending (R103). -/
def stopPairs (s : State) : State :=
  s.tb.active.pair.foldl (fun s e => dropPair e.1 e.2 .stopped s) s

/-- A row is changed by a commit: added, deleted, or different in a field at the same index (R145). -/
def rowChanged {α : Type} [DecidableEq α] (old new : Keyed α) (i : Nat) : Bool := decide (old.get i ≠ new.get i)

/-- A pair is changed by a commit: its row, a PROBE row of its channels, or its ZONE row (R104). -/
def pairChanged (old new : Tables) (pair : Nat) (row : PairRow) : Bool :=
  rowChanged old.pair new.pair pair
    || row.channels.any (fun c => rowChanged old.probe new.probe c)
    || rowChanged old.zone new.zone row.zone

/-- A pair's record after a commit: UNKNOWN(NEW) when the commit changes the pair, every field kept when not (R104). -/
def commitPair (old : Tables) (s : State) (pair : Nat) (row : PairRow) : PairRecord :=
  if pairChanged old s.tb.active pair row then PairRecord.new
  else (s.pe.pairs.get pair).getD PairRecord.new

/-- The Pair Evaluator's part in the taking of a commit (R104). -/
def commitPairs (old : Tables) (s : State) : State :=
  s.setPe { s.pe with pairs := s.tb.active.pair.mapRows (commitPair old s) }

end Sys2Proof.Machine
end

