-- ==== Sys2Proof/Machine/Intake.lean ====
section
/-! DEFINITION. Sample Intake (chapters 3 and 4): calibration, the intake event, forces, freshness, and its part in the
stop and in a commit. -/

namespace Sys2Proof.Machine

/-! ### Calibration -/

/-- A quotient rounded to the nearest integer, halves away from zero (R41). -/
def roundAway (n d : Int) : Int :=
  let magnitude : Nat := (2 * n.natAbs + d.natAbs) / (2 * d.natAbs)
  if decide (n < 0) != decide (d < 0) then -(magnitude : Int) else (magnitude : Int)

/-- The unclamped value of a raw value under a channel's calibration (R41). -/
def unclampedValue (row : ProbeRow) (raw : Nat) : Int :=
  row.refLo + roundAway (((raw : Int) - row.rawLo) * (row.refHi - row.refLo)) ((row.rawHi : Int) - row.rawLo)

/-- The calibrated value of a raw value, clamped to the range of the channel's kind (R42). -/
def calibratedValue (row : ProbeRow) (raw : Nat) : Int :=
  clampTo row.kind.lowEnd row.kind.highEnd (unclampedValue row raw)

/-- GOOD, or CLAMPED when clamping changed the value (R42). -/
def calibratedQuality (row : ProbeRow) (raw : Nat) : Quality :=
  if calibratedValue row raw = unclampedValue row raw then .good else .clamped

/-! ### The intake event -/

/-- The status of a sample record (R3). -/
inductive SampleStatus where
  | ok
  | sensorFault
  | warming
  deriving DecidableEq, Repr

/-- The sample status of a code, none for an undefined status (R194). -/
def SampleStatus.ofCode (n : Nat) : Option SampleStatus :=
  if n = 0 then some .ok else if n = 1 then some .sensorFault else if n = 2 then some .warming else none

/-- A sample record that R14 lets through. -/
structure Sample where
  slot : Nat
  status : SampleStatus
  raw : Nat
  deriving DecidableEq, Repr

/-- The reply as the intake notice carries it (R11): none, a new block, or one of the other replies. -/
inductive Taken where
  | nothing
  | newBlock (samples : List Sample)
  | outOfStep
  | empty
  | fault (code : Nat)
  | answer
  deriving DecidableEq, Repr

/-- The intake notice (R11). -/
structure Notice where
  node : Nat
  line : Option Line
  marked : Bool
  taken : Taken
  deriving DecidableEq, Repr

/-- The channel that a node's slot belongs to, with its row (R44). -/
def channelOf (rows : Keyed ProbeRow) (node slot : Nat) : Option (Nat × ProbeRow) :=
  rows.find? fun e => e.2.node == node && e.2.slot == slot

/-- The readings during an intake event, with the channels written by an OK sample or a force so far, and those whose
last write in step 1 was an OK sample (R50, R51). -/
structure IntakeWork where
  readings : Keyed Reading
  written : List Nat
  lastOk : List Nat
  deriving DecidableEq, Repr

/-- The reading an OK sample sets (R45). -/
def okReading (cycle : Half) (n : Notice) (row : ProbeRow) (raw : Nat) : Reading :=
  { quality := calibratedQuality row raw, value := some (calibratedValue row raw), fresh := row.freshCycles
    stamp := some cycle, line := n.line, marked := n.marked }

/-- A reading made FAULT; one that holds no value stays NONE (R46, R48). -/
def Reading.toFault (r : Reading) : Reading :=
  if r.quality = .none then r else { r with quality := .fault, fresh := 0 }

/-- Applies one sample record of a new block (R44 to R47). A WARMING record writes nothing, so after an OK record of the same
slot the reading was last written by the OK sample, and a SUBSTITUTE acts on it (R50 and R62's first sentence; what R62 says
of a later record leaves it open). DESIGN CHOICE, unsafe (notes/assumptions/23.md). -/
def applySample (cycle : Half) (rows : Keyed ProbeRow) (n : Notice) (w : IntakeWork) (x : Sample) : IntakeWork :=
  match channelOf rows n.node x.slot with
  | none => w
  | some (c, row) =>
    match x.status with
    | .ok => { readings := w.readings.modify c (fun _ => okReading cycle n row x.raw)
               written := c :: w.written, lastOk := c :: w.lastOk }
    | .sensorFault => { w with readings := w.readings.modify c Reading.toFault
                               lastOk := w.lastOk.filter (fun k => k != c) }
    | .warming => w

/-- The channels of a node with their rows, ascending (R38). -/
def channelsOf (rows : Keyed ProbeRow) (node : Nat) : Keyed ProbeRow := rows.filter fun e => e.2.node == node

/-- Step 1 of an intake event: the reply taken is applied by its kind (R43 to R49). -/
def applyReply (cycle : Half) (rows : Keyed ProbeRow) (n : Notice) (readings : Keyed Reading) : IntakeWork :=
  let w : IntakeWork := { readings := readings, written := [], lastOk := [] }
  match n.taken with
  | .newBlock samples => samples.foldl (applySample cycle rows n) w
  | .fault _ => { w with readings :=
      (channelsOf rows n.node).foldl (fun rs e => rs.modify e.1 Reading.toFault) readings }
  | .nothing => w
  | .outOfStep => w
  | .empty => w
  | .answer => w

/-- The reading a PIN entry sets (R61). -/
def pinReading (cycle : Half) (row : ProbeRow) (value : Int) : Reading :=
  { quality := .forced, value := some value, fresh := row.freshCycles, stamp := some cycle, line := none, marked := false }

/-- Applies a channel's force entry (R50): a PIN always (R61), a SUBSTITUTE where step 1 last wrote an OK sample (R62). -/
def applyForce (cycle : Half) (forces : Keyed Force) (w : IntakeWork) (e : Nat × ProbeRow) : IntakeWork :=
  match forces.get e.1 with
  | none => w
  | some f =>
    match f.kind with
    | .pin => { w with readings := w.readings.modify e.1 (fun _ => pinReading cycle e.2 f.value)
                       written := e.1 :: w.written }
    | .substitute =>
      if w.lastOk.contains e.1 then
        { w with readings := w.readings.modify e.1 (fun r => { r with quality := .forced, value := some f.value })
                 written := e.1 :: w.written }
      else w

/-- The lost list: the channels usable before and not after, with the quality they now have, ascending (R51, R52). -/
def lostList (channels : List Nat) (before after : Keyed Reading) : List (Nat × Quality) :=
  channels.filterMap fun c =>
    match before.get c, after.get c with
    | some b, some a => if b.quality.usable && !a.quality.usable then some (c, a.quality) else none
    | _, _ => none

/-- The updated list: the SURFACE_TEMP channels written in the event and usable at its end, ascending (R51). -/
def updatedList (rows : Keyed ProbeRow) (w : IntakeWork) : List Nat :=
  rows.filterMap fun e =>
    if e.2.kind = .surfaceTemp ∧ w.written.contains e.1 then
      match w.readings.get e.1 with
      | some r => if r.quality.usable then some e.1 else none
      | none => none
    else none

/-- The readings an intake event leaves, with what it wrote (steps 1 and 2 of R43). -/
def intakeWork (n : Notice) (s : State) : IntakeWork :=
  let rows := s.tb.active.probe
  (channelsOf rows n.node).foldl (applyForce s.ps.cycle s.si.forces) (applyReply s.ps.cycle rows n s.si.readings)

/-- The intake event (R43): reply, forces, then the notice to the Pair Evaluator. -/
def intakeEvent (n : Notice) (s : State) : State :=
  let mine := channelsOf s.tb.active.probe n.node
  let w := intakeWork n s
  pairNotice (lostList mine.keys s.si.readings w.readings) (updatedList mine w)
    (s.setSi { s.si with readings := w.readings })

/-! ### Freshness and the stop -/

/-- One cycle start's count-down of a reading (R52). -/
def Reading.countDown (r : Reading) : Reading :=
  if r.fresh = 0 then r
  else if r.fresh = 1 then { r with fresh := 0, quality := .stale }
  else { r with fresh := r.fresh - 1 }

/-- The freshness count-down of a cycle start, with its notice (R52). -/
def countDown (s : State) : State :=
  let readings := s.si.readings.mapRows fun _ r => r.countDown
  let lost := s.si.readings.filterMap fun e => if e.2.fresh = 1 then some (e.1, Quality.stale) else none
  pairNotice lost [] (s.setSi { s.si with readings := readings })

/-- A usable reading made STALE by the stop (R54). -/
def Reading.atStop (r : Reading) : Reading := if r.quality.usable then { r with quality := .stale, fresh := 0 } else r

/-- The stop's marking of readings, which gives no notice (R54). -/
def stopReadings (s : State) : State :=
  s.setSi { s.si with readings := s.si.readings.mapRows fun _ r => r.atStop }

/-! ### Commit -/

/-- The Reading Table after a commit (R55). -/
def commitReadings (old : Tables) (s : State) : State :=
  let new := s.tb.active
  s.setSi { s.si with readings := new.probe.mapRows fun c _ =>
    (if rowChanged old.probe new.probe c then none else s.si.readings.get c).getD {} }

/-- An entry is kept by a commit when its channel keeps a row of the same kind (R66). -/
def forceKept (old new : Keyed ProbeRow) (c : Nat) : Bool :=
  match old.get c, new.get c with
  | some b, some a => decide (b.kind = a.kind)
  | _, _ => false

/-- The Force List after a commit (R66). -/
def commitForces (old : Tables) (s : State) : State :=
  s.setSi { s.si with forces := s.si.forces.filter fun e => forceKept old.probe s.tb.active.probe e.1 }

end Sys2Proof.Machine
end

