-- ==== Sys2Proof/Machine/Trunk.lean ====
section
/-! DEFINITION. The Trunk Interface (chapter 1): frames, the grading of a line, the completion of an exchange, and its part
in a commit. -/

namespace Sys2Proof.Machine

/-! ### The frames the part sends -/

/-- The node, control, length and payload bytes of a poll frame (R2, R195). -/
def Exchange.body (x : Exchange) : List Byte :=
  [byte x.node, byte (x.kind.code + bitAt 7 x.toggle), byte x.payload.length] ++ x.payload

/-- The bytes of the poll frame an exchange sends on both lines (R1, R2, R195). -/
def Exchange.frameBytes (x : Exchange) : List Byte := 0xA5#8 :: (x.body ++ wordBytes (check16 x.body))

/-- The bits of the poll frame an exchange sends, the same on both lines (R1). -/
def Exchange.frameLevels (x : Exchange) : List Bool := lineLevels x.frameBytes

/-- The direction control of a trunk line (R1). -/
def State.direction (s : State) : Line → Bool
  | .a => s.ti.dirA
  | .b => s.ti.dirB

/-- The bits that the part sends on a trunk line from the start to the end of a frame, over which it drives the line (R1). -/
def State.sentOn (s : State) (l : Line) : List Bool :=
  match s.ti.exchange with
  | none => []
  | some x => if x.phase = .sending ∧ s.direction l = true then x.frameLevels else []

/-! ### Bytes as a trunk receiver takes them -/

/-- One byte as a trunk receiver takes it: its value, whether it is doubtful, and whether it has a framing error (R6). -/
structure RxByte where
  value : Byte
  doubtful : Bool
  framing : Bool
  deriving DecidableEq, Repr

/-- The byte that a receiver takes from its samples (R6): the value from the later sample of each data bit; doubtful where the
two samples of any bit disagree; a framing error where the stop bit is sampled as space, by its later sample, DEDUCED. That
the samples of the start bit decide nothing else is a DESIGN CHOICE (notes/assumptions/24.md). -/
def receivedByte (x : ByteSamples) : RxByte :=
  { value := x.late.extractLsb' 1 8, doubtful := decide (x.early ≠ x.late), framing := !x.late.getLsbD 9 }

/-- One activity on a trunk line as its receiver takes it (R7): a byte, or a burst too short to form one, with the idle on the
line before it. -/
structure LineActivity where
  idle : Idle
  byte : Option RxByte
  deriving DecidableEq, Repr

/-- The activity that a receiver takes from its samples (R6, R7). -/
def receivedActivity (x : LineSamples) : LineActivity :=
  { idle := x.idle, byte := x.byte.map receivedByte }

/-! ### Grading a reply -/

/-- A length is consistent with a reply kind (R3). -/
def lengthFits (k : ReplyKind) (n : Nat) : Bool :=
  match k with
  | .data => n == 4 || n == 8 || n == 12 || n == 16
  | .empty => n == 0
  | .fault => n == 1
  | .answer => decide (n ≤ 32)

/-- The sample records of a DATA payload (R195). -/
def sampleRecords : List Byte → List SampleRecord
  | slot :: status :: hi :: lo :: rest =>
    { slot := slot.toNat, status := status.toNat, raw := natOf hi lo } :: sampleRecords rest
  | _ => []

/-- The contents of a reply frame of a kind (R3). -/
def replyOf (k : ReplyKind) (toggle : Bool) (payload : List Byte) : Reply :=
  match k with
  | .data => .data toggle (sampleRecords payload)
  | .empty => .empty
  | .fault => .fault (payload.headD 0).toNat
  | .answer => .answer payload

/-- What a line's activity comes to: no frame has started, the frame has not ended, or the line concludes (R7). -/
inductive FrameEnd where
  | notStarted
  | unfinished
  | ended (c : Conclusion)
  deriving DecidableEq, Repr

/-- A complete frame's conclusion, the first of R9 that holds. `head` is the node, control and length bytes, `tail` the
payload and check bytes, `delimiter` the first byte. -/
def gradeComplete (node : Nat) (k : ReplyKind) (delimiter n c l : RxByte) (payload check : List RxByte) : Conclusion :=
  let values := payload.map RxByte.value
  let after := n :: c :: l :: (payload ++ check)
  if k = .fault ∧ values = [0#8] then .length
  else if check.map RxByte.value ≠ wordBytes (check16 (n.value :: c.value :: l.value :: values))
      ∨ after.any RxByte.framing then .check
  else if n.value.toNat ≠ node then .stray
  else
    let reply := replyOf k (c.value.getLsbD 7) values
    if (delimiter :: after).any RxByte.doubtful then .marked reply else .good reply

/-- The conclusion that the bytes after a frame's delimiter bring during an exchange with a node, none while the frame is
not complete (R7, R9). Bytes after the frame's end are disregarded. -/
def gradeBytes (node : Nat) (delimiter : RxByte) : List RxByte → Option Conclusion
  | n :: c :: l :: body =>
    match ReplyKind.ofCode (c.value.toNat % 16) with
    | none => some .length
    | some k =>
      if lengthFits k l.value.toNat then
        if body.length < l.value.toNat + 2 then none
        else some (gradeComplete node k delimiter n c l (body.take l.value.toNat) ((body.drop l.value.toNat).take 2))
      else some .length
  | _ => none

/-- The end of a frame whose delimiter has been received, by the activity that follows it (R7): a gap of more than 2
byte-times before the frame has ended ends it early. A burst within a frame is no byte of it (notes/assumptions/17.md). -/
def gradeFrame (node : Nat) (delimiter : RxByte) (rest : List LineActivity) : FrameEnd :=
  let run := rest.takeWhile fun x => decide (x.idle = .short)
  match gradeBytes node delimiter (run.filterMap LineActivity.byte) with
  | some c => .ended c
  | none => if run.length < rest.length then .ended .length else .unfinished

/-- The delimiter that an activity is, if it starts a frame (R7): a byte 5Ah without a framing error that is the first
activity since the poll frame ended (`seen` is false) or follows at least 3 byte-times of idle. -/
def delimiterOf (seen : Bool) (x : LineActivity) : Option RxByte :=
  x.byte.filter fun b => decide (b.value = 0x5A#8) && !b.framing && (!seen || decide (x.idle = .long))

/-- The search for a frame in what a line shows during an exchange with a node, and the grading of the frame (R7, R9).
Activity that starts no frame is activity seen, and the receiver keeps looking. -/
def gradeLine (node : Nat) : Bool → List LineActivity → FrameEnd
  | _, [] => .notStarted
  | seen, x :: rest =>
    match delimiterOf seen x with
    | some d => gradeFrame node d rest
    | none => gradeLine node true rest

/-! ### Outcomes and the reply taken -/

/-- The outcome of a conclusion (R9). -/
def Conclusion.outcome : Conclusion → LineOutcome
  | .silent => .silent
  | .collision => .collision
  | .length => .length
  | .check => .check
  | .stray => .stray
  | .marked _ => .marked
  | .good _ => .good

/-- The reply of a line that is usable, with whether its frame was MARKED (R10). -/
def Conclusion.usable (acceptMarked : Bool) : Conclusion → Option (Bool × Reply)
  | .good r => some (false, r)
  | .marked r => if acceptMarked then some (true, r) else none
  | .silent => none
  | .collision => none
  | .length => none
  | .check => none
  | .stray => none

/-- The other line. -/
def otherLine : Line → Line
  | .a => .b
  | .b => .a

/-- The conclusion of a line of the two. -/
def pickLine (l : Line) (a b : Conclusion) : Conclusion :=
  match l with
  | .a => a
  | .b => b

/-- The reply taken (R11): the preferred line's if it is usable, otherwise the other line's if that is, otherwise none. -/
def takeReply (acceptMarked : Bool) (preferred : Line) (a b : Conclusion) : Option (Line × Bool × Reply) :=
  match (pickLine preferred a b).usable acceptMarked with
  | some (m, r) => some (preferred, m, r)
  | none =>
    match (pickLine (otherLine preferred) a b).usable acceptMarked with
    | some (m, r) => some (otherLine preferred, m, r)
    | none => none

/-- The kind of a reply (R3). -/
def Reply.kind : Reply → ReplyKind
  | .data _ _ => .data
  | .empty => .empty
  | .fault _ => .fault
  | .answer _ => .answer

/-- The sample a record gives, none where its slot is above 3 or its status is undefined (R14). -/
def sampleOf (x : SampleRecord) : Option Sample :=
  if x.slot ≤ 3 then (SampleStatus.ofCode x.status).map fun st => { slot := x.slot, status := st, raw := x.raw }
  else none

/-- What the intake notice says of the reply taken, for a node that was asked for a toggle (R11, R13, R14). -/
def takenOf (toggle : Bool) : Option (Line × Bool × Reply) → Taken
  | none => .nothing
  | some (_, _, .data t records) => if t = toggle then .newBlock (records.filterMap sampleOf) else .outOfStep
  | some (_, _, .empty) => .empty
  | some (_, _, .fault code) => .fault code
  | some (_, _, .answer _) => .answer

/-! ### The Node State record at a completion -/

/-- Line switchover (R12). -/
def NodeRecord.switchover (r : NodeRecord) (switchAfter : Nat) (taken : Option Line) : NodeRecord :=
  match taken with
  | none => r
  | some l =>
    if l = r.activeLine then { r with otherOnly := 0 }
    else if switchAfter ≤ r.otherOnly + 1 then { r with otherOnly := 0, activeLine := otherLine r.activeLine }
    else { r with otherOnly := r.otherOnly + 1 }

/-- The expect toggle: a new block flips it, OUT_OF_STEP is counted (R13). -/
def NodeRecord.toggleStep (r : NodeRecord) (t : Taken) : NodeRecord :=
  match t with
  | .newBlock _ => { r with expectToggle := !r.expectToggle }
  | .outOfStep => { r with outOfStepTotal := satSucc 65535 r.outOfStepTotal }
  | .nothing => r
  | .empty => r
  | .fault _ => r
  | .answer => r

/-- Quarantine (R15). -/
def NodeRecord.quarantineStep (r : NodeRecord) (quarantineAfter : Nat) (usable : Bool) : NodeRecord :=
  if usable then { r with failRun := 0, quarantined := false }
  else if r.quarantined then { r with failRun := quarantineAfter }
  else if quarantineAfter ≤ r.failRun + 1 then { r with failRun := quarantineAfter, quarantined := true }
  else { r with failRun := r.failRun + 1 }

/-- A failure total: counted when the line's outcome was not usable (R16). -/
def failTotal (n : Nat) (acceptMarked : Bool) (c : Conclusion) : Nat :=
  if (c.usable acceptMarked).isSome then n else satSucc 65535 n

/-- The line diagnosis (R16). -/
def NodeRecord.diagnose (r : NodeRecord) (acceptMarked : Bool) (a b : Conclusion) (taken : Option Reply) : NodeRecord :=
  { r with
    lastOutcomeA := some a.outcome
    lastOutcomeB := some b.outcome
    failTotalA := failTotal r.failTotalA acceptMarked a
    failTotalB := failTotal r.failTotalB acceptMarked b
    lastReplyKind := match taken with
      | some reply => some reply.kind
      | none => r.lastReplyKind
    lastFaultCode := match taken with
      | some (.fault code) => some code
      | _ => r.lastFaultCode }

/-- The whole update of a node's record at the completion of a POLL exchange (R12 to R16). -/
def NodeRecord.complete (r : NodeRecord) (g : GeneralRow) (acceptMarked : Bool) (a b : Conclusion) : NodeRecord :=
  let t := takeReply acceptMarked r.activeLine a b
  (((r.switchover g.lineSwitchAfter (t.map fun x => x.1)).toggleStep (takenOf r.expectToggle t)).quarantineStep
    g.quarantineAfter t.isSome).diagnose acceptMarked a b (t.map fun x => x.2.2)

/-! ### Completions -/

/-- The record of a node; an address without one has a fresh record's values (notes/assumptions/12.md). -/
def State.node (s : State) (n : Nat) : NodeRecord := (s.ti.nodes.get n).getD {}

/-- The intake notice of a POLL exchange (R11). -/
def noticeOf (r : NodeRecord) (x : Exchange) (a b : Conclusion) : Notice :=
  let t := takeReply x.acceptMarked r.activeLine a b
  { node := x.node, line := t.map (fun y => y.1), marked := (t.map (fun y => y.2.1)).getD false
    taken := takenOf r.expectToggle t }

/-- The completion of a POLL exchange: Node State, then the intake event (R11 to R16, R43). -/
def completePoll (x : Exchange) (a b : Conclusion) (s : State) : State :=
  let r := s.node x.node
  intakeEvent (noticeOf r x a b)
    (s.setTi { s.ti with
      exchange := none
      nodes := s.ti.nodes.modify x.node (fun r => r.complete s.tb.active.general x.acceptMarked a b) })

/-- The outcome of a relay by the reply taken (R156). -/
def relayOutcome : Option Reply → RelayOutcome
  | some (.answer _) => .answered
  | some (.fault _) => .nodeFault
  | some (.data _ _) => .noAnswer
  | some .empty => .noAnswer
  | none => .noAnswer

/-- The result of a relay request's exchange (R156, R157). -/
def relayResult (cycle : Half) (q : RelayRequest) (preferred : Line) (a b : Conclusion) : RelayResult :=
  let t := takeReply false preferred a b
  { tag := q.tag
    node := q.node
    outcome := relayOutcome (t.map fun x => x.2.2)
    replyKind := t.map fun x => x.2.2.kind
    line := t.map fun x => x.1
    outcomeA := a.outcome
    outcomeB := b.outcome
    faultCode := match t with
      | some (_, _, .fault code) => some code
      | _ => none
    payload := match t with
      | some (_, _, .answer bytes) => bytes
      | _ => []
    completionCycle := cycle }

/-- The completion of a RELAY exchange: the relay in flight becomes a result, and Node State is untouched (R19, R156). -/
def completeRelay (x : Exchange) (a b : Conclusion) (s : State) : State :=
  let s := s.setTi { s.ti with exchange := none }
  match s.ru.inFlight with
  | none => s
  | some q => s.setRu { s.ru with
      inFlight := none
      results := s.ru.results ++ [relayResult s.ps.cycle q (s.node x.node).activeLine a b] }

/-- The completion of the exchange in progress (R8). -/
def completeExchange (x : Exchange) (a b : Conclusion) (s : State) : State :=
  match x.kind with
  | .poll => completePoll x a b s
  | .relay => completeRelay x a b s

/-! ### Node State and the tables -/

/-- The node address of a row that polls one. -/
def PollRow.node? : PollRow → Option Nat
  | .poll node _ _ => some node
  | .relay => none

/-- The node addresses of the POLL rows, in position order. -/
def pollNodes (rows : Keyed PollRow) : List Nat := rows.filterMap fun e => e.2.node?

/-- The Node State list of a POLL table, each record made from the address (R17, R18). -/
def nodeList (rows : Keyed PollRow) (f : Nat → NodeRecord) : Keyed NodeRecord :=
  (pollNodes rows).foldl (fun t n => t.put n (f n)) []

/-- The quarantine adjustment when quarantine_after changes (R15). -/
def NodeRecord.adjust (old new : GeneralRow) (r : NodeRecord) : NodeRecord :=
  if old.quarantineAfter ≠ new.quarantineAfter ∧ r.quarantined then { r with failRun := new.quarantineAfter } else r

/-- The Node State list after a commit (R18): kept addresses keep their record, new ones get a fresh one. -/
def commitNodes (old : Tables) (s : State) : State :=
  let new := s.tb.active
  s.setTi { s.ti with nodes := nodeList new.poll fun n => (s.node n).adjust old.general new.general }

end Sys2Proof.Machine
end

