-- ==== Sys2Proof/Machine/Tables.lean ====
section
/-! DEFINITION. The Table Store (chapter 8): staged copies, the load sequence, the cross checks, and the taking of a commit
with the part each block has in it. -/

namespace Sys2Proof.Machine

/-! ### Staged copies and the load sequence -/

/-- A staged copy with its rows wrapped. -/
def Staged.map {α β : Type} (f : α → β) : Staged α → Staged β
  | .none => .none
  | .opened => .opened
  | .ready rows => .ready (f rows)

/-- The rows of a READY copy. -/
def Staged.rows? {α : Type} : Staged α → Option α
  | .none => Option.none
  | .opened => Option.none
  | .ready rows => some rows

/-- A copy is READY. -/
def Staged.isReady {α : Type} (c : Staged α) : Bool := c.rows?.isSome

/-- The staged copy of a table (R129). -/
def StagedTables.copy (c : StagedTables) : TableId → Staged TableRows
  | .poll => c.poll.map .poll
  | .probe => c.probe.map .probe
  | .pair => c.pair.map .pair
  | .zone => c.zone.map .zone
  | .general => c.general.map .general

/-- The staged copy of a table made OPEN (R133). -/
def StagedTables.setOpened (c : StagedTables) : TableId → StagedTables
  | .poll => { c with poll := .opened }
  | .probe => { c with probe := .opened }
  | .pair => { c with pair := .opened }
  | .zone => { c with zone := .opened }
  | .general => { c with general := .opened }

/-- The staged copy of a table made NONE (R137). -/
def StagedTables.setNone (c : StagedTables) : TableId → StagedTables
  | .poll => { c with poll := .none }
  | .probe => { c with probe := .none }
  | .pair => { c with pair := .none }
  | .zone => { c with zone := .none }
  | .general => { c with general := .none }

/-- The staged copy of the rows' table made READY with them (R136, R137). -/
def StagedTables.setReady (c : StagedTables) : TableRows → StagedTables
  | .poll t => { c with poll := .ready t }
  | .probe t => { c with probe := .ready t }
  | .pair t => { c with pair := .ready t }
  | .zone t => { c with zone := .ready t }
  | .general r => { c with general := .ready r }

/-- The active copy of a table (R129). -/
def Tables.copy (t : Tables) : TableId → TableRows
  | .poll => .poll t.poll
  | .probe => .probe t.probe
  | .pair => .pair t.pair
  | .zone => .zone t.zone
  | .general => .general t.general

/-- The working contents REPLACE starts from: no rows, or the GENERAL row of defaults (R133). -/
def TableId.emptyRows : TableId → TableRows
  | .poll => .poll []
  | .probe => .probe []
  | .pair => .pair []
  | .zone => .zone []
  | .general => .general {}

/-- An open load sequence is abandoned: its staged copy returns to the prior staged (R137). -/
def TableStore.abandon (tb : TableStore) : TableStore :=
  match tb.load with
  | none => tb
  | some l =>
    { tb with
      load := none
      staged := match l.prior with
        | some rows => tb.staged.setReady rows
        | none => tb.staged.setNone l.working.table }

/-- The working contents a load sequence on a table starts from (R133). -/
def TableStore.startRows (tb : TableStore) (t : TableId) (m : LoadMethod) : TableRows :=
  match m with
  | .replace => t.emptyRows
  | .patch => ((tb.staged.copy t).rows?).getD (tb.active.copy t)

/-- A load sequence is opened on a table (R133, case 4). -/
def TableStore.openLoad (tb : TableStore) (t : TableId) (m : LoadMethod) : TableStore :=
  { tb with
    load := some { working := tb.startRows t m, prior := (tb.staged.copy t).rows? }
    staged := tb.staged.setOpened t }

/-- An open load sequence is closed: its staged copy becomes READY with the working contents (R136). -/
def TableStore.closeLoad (tb : TableStore) (l : LoadSequence) : TableStore :=
  { tb with load := none, staged := tb.staged.setReady l.working }

/-- The load sequence of a state is abandoned, if one is open (R137). -/
def abandonLoad (s : State) : State := s.setTb s.tb.abandon

/-! ### The cross checks (R141) -/

/-- The first index whose key also stands at a lower index. -/
def firstRepeat {κ : Type} [DecidableEq κ] (seen : List κ) : List (Nat × κ) → Option Nat
  | [] => none
  | (i, k) :: rest => if k ∈ seen then some i else firstRepeat (k :: seen) rest

/-- The first index whose row breaks a condition. -/
def firstBreaking {α : Type} (ok : α → Bool) : Keyed α → Option Nat
  | [] => none
  | (i, r) :: rest => if ok r then firstBreaking ok rest else some i

/-- The positions of the POLL rows with their nodes. -/
def nodePositions (rows : Keyed PollRow) : List (Nat × Nat) :=
  rows.filterMap fun e => e.2.node?.map fun n => (e.1, n)

/-- A channel has a PROBE row of a kind. -/
def hasKind (rows : Keyed ProbeRow) (channel : Nat) (k : ProbeKind) : Bool :=
  match rows.get channel with
  | some r => decide (r.kind = k)
  | none => false

/-- Check 4 over one PAIR row: its channels have PROBE rows of the right kinds (R141). -/
def pairChannelsFit (rows : Keyed ProbeRow) (r : PairRow) : Bool :=
  hasKind rows r.airT .airTemp && hasKind rows r.airRh .airRh && hasKind rows r.surface .surfaceTemp

/-- The five cross checks in order: the number of the first that fails and the lowest index that breaks it (R141). -/
def crossCheck (c : Tables) : Option (Nat × Nat) :=
  match firstRepeat [] (nodePositions c.poll) with
  | some i => some (1, i)
  | none =>
    match firstRepeat [] (c.probe.map fun e => (e.1, (e.2.node, e.2.slot))) with
    | some i => some (2, i)
    | none =>
      match firstBreaking (fun r => decide (r.node ∈ pollNodes c.poll)) c.probe with
      | some i => some (3, i)
      | none =>
        match firstBreaking (pairChannelsFit c.probe) c.pair with
        | some i => some (4, i)
        | none => (firstBreaking (fun r => (c.zone.get r.zone).isSome) c.pair).map fun i => (5, i)

/-! ### Commit -/

/-- The candidate set: each READY staged copy, and the active copy of each other table (R141). -/
def TableStore.candidate (tb : TableStore) : Tables :=
  { poll := tb.staged.poll.rows?.getD tb.active.poll
    probe := tb.staged.probe.rows?.getD tb.active.probe
    pair := tb.staged.pair.rows?.getD tb.active.pair
    zone := tb.staged.zone.rows?.getD tb.active.zone
    general := tb.staged.general.rows?.getD tb.active.general }

/-- The set of READY tables as one byte, bit n for the table whose code is n (R194). -/
def StagedTables.readySet (c : StagedTables) : Nat :=
  bitAt 0 c.poll.isReady + bitAt 1 c.probe.isReady + bitAt 2 c.pair.isReady + bitAt 3 c.zone.isReady
    + bitAt 4 c.general.isReady

/-- The taking of a commit (R145, R146): the candidate set becomes the active tables, every staged copy returns to NONE,
no commit is pending, and TI, SI, PE and then ZM bring their state into line. -/
def takeCommit (c : Tables) (s : State) : State :=
  let old := s.tb.active
  let s := s.setTb { s.tb with active := c, staged := {}, pendingCommit := none }
  commitZones (commitPairs old (commitForces old (commitReadings old (commitNodes old s))))

end Sys2Proof.Machine
end

