-- ==== Sys2Proof/Machine/Cycle.lean ====
section
/-! DEFINITION. The Poll Scheduler (chapter 2): cycle start, the walk, cycle completion and the stop, and the Relay Unit's
hand-over at a relay slot (R154). -/

namespace Sys2Proof.Machine

/-- The work of a cycle boundary together with a pending commit, in the order the free value gives (R117, R146). -/
def boundary (work : State → State) (s : State) : State :=
  match s.tb.pendingCommit with
  | none => work s
  | some c =>
    if Config.commitFirst s.orderChoices then work (takeCommit c s.nextOrder)
    else takeCommit c (work s.nextOrder)

/-- A cycle start (R25): the cycle number advances, PS walks from before the first row, freshness is counted down and a
pending commit is taken, and the timer runs for the cycle_period then active (R24). -/
def cycleStart (s : State) : State :=
  let s := s.setPs { s.ps with cycle := s.ps.cycle + 1, phase := .walking, position := none }
  let s := boundary countDown s
  s.setPs { s.ps with timer := .running s.tb.active.general.cyclePeriod }

/-- The work of the stop in SI and PE (R54, R103). -/
def stopWork (s : State) : State := stopPairs (stopReadings s)

/-- The stop (R32): an open summary sequence closes (R125, R126), PS halts, the mode becomes IDLE, readings go STALE,
pairs become UNKNOWN(STOPPED), and a pending commit is taken (R143). -/
def stop (s : State) : State :=
  let s := breakSummary s
  let s := s.setPs { s.ps with phase := .halted, timer := .stopped, position := none }
  let s := s.setMc { s.mc with mode := .idle }
  boundary stopWork s

/-- The exchange a visit opens, its frame not yet begun (R1, R2). -/
def newExchange (kind : PollKind) (node replyTimeout : Nat) (acceptMarked toggle : Bool) (payload : List Byte) :
    Exchange :=
  { kind := kind, phase := .due, node := node, replyTimeout := replyTimeout, acceptMarked := acceptMarked
    toggle := toggle, payload := payload, timedOut := false
    lineA := .listening false, lineB := .listening false }

/-- A QUARANTINED node is out of turn in a cycle whose number is not a multiple of quarantine_interval (R27, R28). -/
def outOfTurn (cycle : Half) (interval : Nat) (r : NodeRecord) : Bool :=
  r.quarantined && decide (cycle.toNat % interval ≠ 0)

/-- The visit of a POLL row (R27), with whether a frame is sent. -/
def visitPoll (node replyTimeout : Nat) (acceptMarked : Bool) (s : State) : State × Bool :=
  let r := s.node node
  if 0 < r.skipRemaining then
    (s.setTi { s.ti with
      nodes := s.ti.nodes.modify node (fun r => { r with skipRemaining := r.skipRemaining - 1 }) }, false)
  else if outOfTurn s.ps.cycle s.tb.active.general.quarantineInterval r then (s, false)
  else
    (s.setTi { s.ti with
      exchange := some (newExchange .poll node replyTimeout acceptMarked r.expectToggle []) }, true)

/-- The number of results held plus the relay in flight (R154). -/
def RelayState.held (ru : RelayState) : Nat := ru.results.length + ru.inFlight.toList.length

/-- The visit of a RELAY row (R29, R154), with whether a frame is sent. -/
def visitRelay (s : State) : State × Bool :=
  match s.ru.queue with
  | [] => (s, false)
  | q :: rest =>
    if s.ru.held < Config.relayResults then
      ((s.setRu { s.ru with queue := rest, inFlight := some q }).setTi { s.ti with
        exchange := some (newExchange .relay q.node q.replyTimeout false false q.payload) }, true)
    else (s, false)

/-- The visit of a row (R26): the walk position is the row's, and the row is passed over or its frame is sent. -/
def visitRow (position : Nat) (row : PollRow) (s : State) : State × Bool :=
  let s := s.setPs { s.ps with position := some position }
  match row with
  | .poll node replyTimeout acceptMarked => visitPoll node replyTimeout acceptMarked s
  | .relay => visitRelay s

/-- The walk over rows in ascending position, until a frame is sent or no row is left (R26). -/
def walkRows : Keyed PollRow → State → State × Bool
  | [], s => (s, false)
  | (position, row) :: rest, s =>
    match visitRow position row s with
    | (s', true) => (s', true)
    | (s', false) => walkRows rest s'

/-- The rows the walk has not visited in this cycle (R22, R26). -/
def State.rowsAhead (s : State) : Keyed PollRow :=
  match s.ps.position with
  | none => s.tb.active.poll
  | some p => s.tb.active.poll.filter fun e => decide (p < e.1)

/-- What PS does at a cycle completion, by the mode and the timer (R30). -/
def afterCompletion (overrun : State → State) (s : State) : State :=
  if s.mc.mode = .stopping then stop s
  else
    match s.ps.timer with
    | .expired => overrun (s.setPs { s.ps with overruns := satSucc 255 s.ps.overruns })
    | .running _ => s.setPs { s.ps with phase := .waiting }
    | .stopped => s.setPs { s.ps with phase := .waiting }

/-- Cycle completion (R30): the walk position goes, the Zone Monitor publishes, defers or breaks, and PS waits, starts
the next cycle (`overrun`) or stops. -/
def cycleCompletion (overrun : State → State) (s : State) : State :=
  afterCompletion overrun (zoneCompletion (s.setPs { s.ps with position := none }))

/-- The walk from the walk position on, and the completion where no row is left (R26). -/
def runWalk (overrun : State → State) (s : State) : State :=
  match walkRows s.rowsAhead s with
  | (s', true) => s'
  | (s', false) => cycleCompletion overrun s'

/-- A cycle start with the visits that follow it at once. Its own completion finds the timer just started, so it never
counts an overrun (R25, R30). -/
def openCycle (s : State) : State := runWalk id (cycleStart s)

/-- The walk goes on after an exchange (R26); an overrun at its completion opens the next cycle at once (R30). -/
def continueWalk (s : State) : State := runWalk openCycle s

/-- An exchange with a line's state renewed: it stays in progress until both lines have concluded, and completes then,
and the walk goes on (R8, R26). -/
def settleExchange (x : Exchange) (s : State) : State :=
  match x.lineA, x.lineB with
  | .concluded a, .concluded b => continueWalk (completeExchange x a b s)
  | _, _ => s.setTi { s.ti with exchange := some x }

end Sys2Proof.Machine
end

