-- ==== Sys2Proof/Machine/Store.lean ====
section
/-! DEFINITION. The Configuration Store and Mode Control (chapter 11): the image, its judging, the entry to START and the
end of start-up. -/

namespace Sys2Proof.Machine

/-! ### The image (R182, R200) -/

/-- One row as a PUT entry (R182, R197). -/
def putEntry (index : Nat) (row : List Byte) : List Byte := byte 1 :: byte index :: row

/-- The rows of a table as PUT entries, ascending (R182). -/
def entriesOf {α : Type} (bytes : α → List Byte) (t : Keyed α) : List Byte :=
  t.flatMap fun e => putEntry e.1 (bytes e.2)

/-- The rows of an image: GENERAL, POLL, PROBE, PAIR, ZONE (R182). -/
def imageRows (t : Tables) : List Byte :=
  putEntry 0 t.general.bytes ++ entriesOf PollRow.bytes t.poll ++ entriesOf ProbeRow.bytes t.probe
    ++ entriesOf PairRow.bytes t.pair ++ entriesOf ZoneRow.bytes t.zone

/-- The length an image's row counts give (R200). -/
def imageLength (general poll probe pair zone : Nat) : Nat :=
  10 + 9 * general + 6 * poll + 14 * probe + 7 * pair + 13 * zone + 2

/-- The header of an image (R200). -/
def imageHeader (saveCount : Nat) (t : Tables) : List Byte :=
  [byte 1] ++ natBytes (imageLength 1 t.poll.length t.probe.length t.pair.length t.zone.length)
    ++ natBytes saveCount
    ++ [byte 1, byte t.poll.length, byte t.probe.length, byte t.pair.length, byte t.zone.length]

/-- The image of a set of tables under a save count (R182, R200). -/
def storeImage (saveCount : Nat) (t : Tables) : List Byte :=
  let covered := imageHeader saveCount t ++ imageRows t
  covered ++ wordBytes (check16 covered)

/-- Reads a number of PUT entries whose indices rise from `low` and lie below `cap` and whose rows are well formed; with
the bytes left. None where an entry fails (R182). -/
def readEntries {α : Type} (size cap : Nat) (ofBytes : List Byte → Option α) :
    Nat → Nat → List Byte → Option (Keyed α × List Byte)
  | 0, _, bs => some ([], bs)
  | n + 1, low, op :: index :: rest =>
    if op.toNat = 1 ∧ low ≤ index.toNat ∧ index.toNat < cap then
      match ofBytes (rest.take size) with
      | none => none
      | some r =>
        (readEntries size cap ofBytes n (index.toNat + 1) (rest.drop size)).map
          fun p => ((index.toNat, r) :: p.1, p.2)
    else none
  | _ + 1, _, _ => none

/-- The rows of the five tables by an image's counts, none where an entry fails (R182). -/
def readTables (poll probe pair zone : Nat) (bs : List Byte) : Option Tables :=
  match readEntries 7 1 GeneralRow.ofBytes 1 0 bs with
  | some ([(_, general)], bs) =>
    match readEntries 4 Config.pollRows PollRow.ofBytes poll 0 bs with
    | none => none
    | some (pollRows, bs) =>
      match readEntries 12 Config.channels ProbeRow.ofBytes probe 0 bs with
      | none => none
      | some (probeRows, bs) =>
        match readEntries 5 Config.pairs PairRow.ofBytes pair 0 bs with
        | none => none
        | some (pairRows, bs) =>
          (readEntries 11 Config.zones ZoneRow.ofBytes zone 0 bs).map fun p =>
            { poll := pollRows, probe := probeRows, pair := pairRows, zone := p.1, general := general }
  | _ => none

/-- The header of an image, as numbers (R200). -/
structure ImageHeader where
  format : Nat
  length : Nat
  saveCount : Nat
  general : Nat
  poll : Nat
  probe : Nat
  pair : Nat
  zone : Nat
  deriving DecidableEq, Repr

/-- The header that the first ten bytes of the memory spell. -/
def readHeader : List Byte → Option ImageHeader
  | f :: l1 :: l0 :: c1 :: c0 :: g :: po :: pr :: pa :: z :: _ => some
      { format := f.toNat, length := natOf l1 l0, saveCount := natOf c1 c0, general := g.toNat
        poll := po.toNat, probe := pr.toNat, pair := pa.toNat, zone := z.toNat }
  | _ => none

/-- The header's part in the judging of an image in a memory of `size` bytes: format, length and counts (R182, R200). -/
def ImageHeader.sound (h : ImageHeader) (size : Nat) : Bool :=
  decide (h.format = 1) && decide (21 ≤ h.length) && decide (h.length ≤ 3253) && decide (h.length ≤ size)
    && decide (h.general = 1) && decide (h.poll ≤ Config.pollRows) && decide (h.probe ≤ Config.channels)
    && decide (h.pair ≤ Config.pairs) && decide (h.zone ≤ Config.zones)
    && decide (h.length = imageLength h.general h.poll h.probe h.pair h.zone)

/-- Judges the image in the memory (R182): its save count and its tables when it is whole, none when it is not. -/
def judge (bs : List Byte) : Option (Nat × Tables) :=
  match readHeader bs with
  | none => none
  | some h =>
    if h.sound bs.length then
      let covered := bs.take (h.length - 2)
      if (bs.drop (h.length - 2)).take 2 = wordBytes (check16 covered) then
        (readTables h.poll h.probe h.pair h.zone (covered.drop 10)).map fun t => (h.saveCount, t)
      else none
    else none

/-! ### Start-up -/

/-- What a start finds in the store: the store state, the save count and the tables delivered (R187). -/
def storeFinding (image : StoredImage) : StoreStatus × Nat × Tables :=
  match image with
  | .never => (.empty, 0, Tables.empty)
  | .incomplete => (.damaged, 0, Tables.empty)
  | .bytes bs =>
    match judge bs with
    | none => (.damaged, 0, Tables.empty)
    | some (n, t) => if crossCheck t = none then (.valid, n, t) else (.damaged, n, Tables.empty)

/-- A write in progress is cut short: the memory keeps what has been written of the image, which is not whole (R185).
The memory has held an incomplete image since the write began. -/
def cutShort (s : State) : State := s.setCs { s.cs with saveWrite := none }

/-- The direction controls released (R192). -/
def releaseLines (s : State) : State :=
  (s.setTi { s.ti with dirA := false, dirB := false }).setUi { s.ui with dir := false }

/-- The entry to START (R186) with the reading of the store (R187). RESTART keeps the overrun count (R37) and the uplink
error count and its overflow marker (R178); everything else is set afresh. -/
def enterStart (reason : StartReason) (s : State) : State :=
  let found := storeFinding s.cs.image
  let kept := decide (reason = .restart)
  { s with
    ti := { receiversOn := false, dirA := false, dirB := false, exchange := none, nodes := [] }
    ps := { phase := .halted, cycle := 0, timer := .stopped, position := none
            overruns := if kept then s.ps.overruns else 0 }
    si := { readings := [], forces := [] }
    pe := { pairs := [] }
    zm := { zones := [], bank := { publicationCycle := none, records := [] }, alerts := []
            summary := { isOpen := false, nextRecord := 0, held := 0, broken := false } }
    tb := { active := found.2.2, staged := {}, load := none, pendingCommit := none }
    ru := { queue := [], inFlight := none, results := [] }
    ui := { receiver := .off, heldFrame := none, errors := if kept then s.ui.errors else 0
            overflow := kept && s.ui.overflow, response := none, dir := false }
    mc := { mode := .start, reason := reason, restartPending := false, restartAnswered := false }
    cs := { s.cs with state := found.1, saveCount := found.2.1, saveWrite := none } }

/-- The blocks build their state from the delivered tables (R188): TI, SI, PE and then ZM. -/
def buildBlocks (s : State) : State :=
  let t := s.tb.active
  let s := s.setTi { s.ti with nodes := nodeList t.poll fun _ => {} }
  let s := s.setSi { readings := t.probe.mapRows fun _ _ => {}, forces := [] }
  let s := s.setPe { pairs := t.pair.mapRows fun _ _ => PairRecord.new }
  s.setZm { s.zm with zones := t.zone.mapRows s.zoneRecord }

/-- The end of START (R188): the receivers are enabled, and the mode becomes SURVEY with a cycle start at once, or IDLE. -/
def endStart (s : State) : State :=
  let s := buildBlocks s
  let s := s.setTi { s.ti with receiversOn := true }
  let s := s.setUi { s.ui with receiver := .waitIdle }
  if s.tb.active.general.autoSurvey = true ∧ s.tb.active.poll ≠ [] then
    openCycle (s.setMc { s.mc with mode := .survey })
  else s.setMc { s.mc with mode := .idle }

end Sys2Proof.Machine
end

