-- ==== Sys2Proof/Machine/PowerCommands.lean ====
section
/-! DEFINITION. The meanings of power, reset, start-up, restart and the end of a SAVE's write (R184 to R192). -/

namespace Sys2Proof.Machine

/-- POWER_ON: the supply comes, a SAVE in progress is cut short, and the part enters START with reason POWER (R185, R186).
While the reset input is asserted no event is taken, and START waits for its release (R192). -/
def execPowerOn (s : State) : Host.Outcome State Fault Refusal :=
  let s := cutShort (s.setSupply { s.supply with powered := true })
  .next (if s.supply.resetAsserted then s else enterStart .power s)

/-- RESET_ASSERT: every event stops, the direction controls are released and a SAVE in progress is cut short (R185, R192). -/
def execResetAssert (s : State) : Host.Outcome State Fault Refusal :=
  .next (cutShort (releaseLines (s.setSupply { s.supply with resetAsserted := true })))

/-- RESET_RELEASE: the part enters START with reason POWER, exactly as at power-on (R192). Of a part without supply the release
clears the input alone, and START waits for POWER_ON: R192 is silent there. DESIGN CHOICE, unsafe (notes/assumptions/10.md). -/
def execResetRelease (s : State) : Host.Outcome State Fault Refusal :=
  .next (if s.supply.resetAsserted then
      let s := s.setSupply { s.supply with resetAsserted := false }
      if s.supply.powered then enterStart .power s else s
    else s)

/-- START_UP_END: START ends (R188). -/
def execStartUpEnd (s : State) : Host.Outcome State Fault Refusal :=
  event (fun s => if s.mc.mode = .start then endStart s else s) s

/-- A pending restart may be taken: its response has been sent, no SAVE is in progress (R189), and no response to a later
request is still to be sent, since R162 and R170 have every response sent in full. That a restart waits for that response too
is DEDUCED (notes/assumptions/9.md). -/
def restartDue (s : State) : Bool :=
  s.mc.restartPending && s.mc.restartAnswered && s.cs.saveWrite.isNone && s.ui.response.isNone

/-- RESTART_TAKEN: the entry to START with reason RESTART (R189). -/
def execRestartTaken (s : State) : Host.Outcome State Fault Refusal :=
  event (fun s => if restartDue s then enterStart .restart s else s) s

/-- The memory after a write (R184). -/
def writtenBytes (image : List Byte) : WriteResult → List Byte
  | .intact => image
  | .corrupt bytes => bytes

/-- The end of a write: the image is read back and judged, and the SAVE is no longer in progress (R184). -/
def writeEnds (result : WriteResult) (s : State) : State :=
  match s.cs.saveWrite with
  | none => s
  | some image =>
    s.setCs { s.cs with
      image := .bytes (writtenBytes image result)
      state := if (judge (writtenBytes image result)).isSome then .valid else .damaged
      saveWrite := none }

/-- SAVE_WRITE_END (R184). -/
def execSaveWriteEnd (result : WriteResult) (s : State) : Host.Outcome State Fault Refusal :=
  event (writeEnds result) s

/-- POWER_LOSS: the part takes no event until the next power-on, so a pending restart is not taken, and a SAVE in progress
is cut short (R185, R189). An unpowered part drives no line. -/
def execPowerLoss (s : State) : Host.Outcome State Fault Refusal :=
  .next (cutShort (releaseLines (s.setSupply { s.supply with powered := false })))

end Sys2Proof.Machine
end

