-- ==== Sys2Proof/Machine/Flags.lean ====
section
/-! DEFINITION. The attention flags (R172) and the uplink error count (R173). -/

namespace Sys2Proof.Machine

/-- The attention flags of the part as it stands (R172). -/
def attentionOf (s : State) : Attention :=
  { alerts := !s.zm.alerts.isEmpty
    results := !s.ru.results.isEmpty
    loadOpen := s.tb.load.isSome
    summaryOpen := s.zm.summary.isOpen
    commitPending := s.tb.pendingCommit.isSome
    saving := s.cs.saveWrite.isSome
    mode := s.mc.mode }

/-- The attention byte (R196). -/
def Attention.bits (f : Attention) : Nat :=
  bitAt 0 f.alerts + bitAt 1 f.results + bitAt 2 f.loadOpen + bitAt 3 f.summaryOpen + bitAt 4 f.commitPending
    + bitAt 5 f.saving

/-- An uplink error is counted: the count rises to 127, and past it the overflow marker is set (R173). -/
def UplinkState.countError (u : UplinkState) : UplinkState :=
  if u.errors < 127 then { u with errors := u.errors + 1 } else { u with errors := 127, overflow := true }

end Sys2Proof.Machine
end

