-- ==== Sys2Proof/Machine/Records.lean ====
section
/-! DEFINITION. The records and response payloads as bytes (R196, R198, R199) and the response frame (R163). -/

namespace Sys2Proof.Machine

/-- A reading record (R198); a channel without a row is "not defined". -/
def readingRecord (s : State) (channel : Nat) : List Byte :=
  match s.tb.active.probe.get channel with
  | none => [byte channel, byte 0xFF, 0, 0, 0, 0, 0, 0, 0, 0]
  | some row =>
    let r := s.reading channel
    [byte channel, byte row.kind.code, byte r.quality.code, byte r.fresh] ++ intBytes (r.value.getD 0)
      ++ wordBytes (r.stamp.getD 0) ++ [byte (codeOr255 lineCode r.line), byte (bitAt 0 r.marked)]

/-- Two nibbles as a byte. -/
def nibbles (high low : Nat) : Byte := byte (16 * high + low)

/-- A Node State record (R198). -/
def nodeRecordBytes (node : Nat) (r : NodeRecord) : List Byte :=
  [ byte node,
    byte (bitAt 0 r.quarantined + bitAt 1 r.expectToggle + bitAt 2 (r.activeLine == .b)),
    byte r.skipRemaining,
    nibbles r.otherOnly r.failRun,
    nibbles (outcomeNibble r.lastOutcomeA) (outcomeNibble r.lastOutcomeB),
    byte (codeOr255 ReplyKind.code r.lastReplyKind),
    byte (r.lastFaultCode.getD 0) ]
    ++ natBytes r.failTotalA ++ natBytes r.failTotalB ++ natBytes r.outOfStepTotal

/-- A level with a blind flag: the level in bits 2..0, blind in bit 7 (R198). -/
def levelByte (l : Level) (blind : Bool) : Byte := byte (l.code + bitAt 7 blind)

/-- A zone summary record (R198). -/
def zoneRecordBytes (zone : Nat) (r : ZoneRecord) : List Byte :=
  [ byte zone,
    levelByte r.level r.blind,
    byte r.unknownCount,
    byte r.clearCount,
    byte r.watchCount,
    byte r.nearCount,
    byte r.wetCount ]
    ++ (match r.worst with
      | some w => intBytes w.margin ++ [byte w.pair]
      | none => [0, 0, byte 0xFF])

/-- The summary records a batch returns from a position of the bank on: up to 8 (R122, R123). -/
def batchFrom (bank : Bank) (position : Nat) : Keyed ZoneRecord := (bank.records.drop position).take 8

/-- The FINAL indication: the batch holds the bank's last record, or the bank holds none (R122, R123). -/
def batchIsFinal (bank : Bank) (position : Nat) : Bool := decide (bank.records.length ≤ position + 8)

/-- The payload of SUMMARY_OPEN and SUMMARY_NEXT: the header and the batch (R198). -/
def summaryPayload (bank : Bank) (position held : Nat) : List Byte :=
  let batch := batchFrom bank position
  wordBytes (bank.publicationCycle.getD 0)
    ++ [ byte (bitAt 0 bank.publicationCycle.isSome + bitAt 1 (batchIsFinal bank position)),
         byte bank.records.length,
         byte held,
         byte batch.length ]
    ++ batch.flatMap fun e => zoneRecordBytes e.1 e.2

/-- An alert entry (R198). -/
def alertBytes (a : Alert) : List Byte :=
  [byte a.zone, levelByte a.fromLevel a.fromBlind, levelByte a.nowLevel a.nowBlind, byte a.changes]
    ++ wordBytes a.firstCycle ++ wordBytes a.lastCycle

/-- A relay result (R198). -/
def relayResultBytes (r : RelayResult) : List Byte :=
  [ byte r.tag,
    byte r.node,
    byte r.outcome.code,
    byte (codeOr255 ReplyKind.code r.replyKind),
    byte (codeOr255 lineCode r.line),
    nibbles r.outcomeA.code r.outcomeB.code,
    byte (r.faultCode.getD 0) ]
    ++ wordBytes r.completionCycle ++ [byte r.payload.length] ++ r.payload

/-- The bytes of a field sent only when it is present (R199). -/
def presentBytes {α : Type} (f : α → List Byte) : Option α → List Byte
  | none => []
  | some x => f x

/-- A Pair Status record (R199). A pair without a row is one byte. -/
def pairRecordBytes (s : State) (pair : Nat) : List Byte :=
  match s.tb.active.pair.get pair with
  | none => [0]
  | some row =>
    let r := (s.pe.pairs.get pair).getD PairRecord.new
    [ byte (8 * row.zone + bitAt 2 true + bitAt 1 r.trend + bitAt 0 r.dewLow),
      byte (32 * r.state.code + 4 * r.state.reasonCode),
      byte (bitAt 7 r.inputs.isSome + bitAt 6 r.lastM.isSome + bitAt 5 r.lastMp.isSome + bitAt 4 r.lastEval.isSome
        + r.history.length),
      nibbles r.riseRun r.fallRun ]
      ++ presentBytes wordBytes r.lastEval
      ++ presentBytes (fun x => intBytes x.ta ++ intBytes x.rh ++ intBytes x.ts) r.inputs
      ++ presentBytes intBytes r.lastMp
      ++ (if r.history.isEmpty then presentBytes intBytes r.lastM else [])
      ++ r.history.flatMap intBytes

/-- One READ_TABLE entry: op 1 with the row, or op 0 with row bytes of 00h (R197). -/
def tableEntry (t : TableRows) (index : Nat) : List Byte :=
  match t.rowBytes index with
  | some row => byte 1 :: byte index :: row
  | none => byte 0 :: byte index :: List.replicate t.table.rowSize 0

/-- The identity descriptor's records before END (R191, R200). -/
def identRecords : List Byte :=
  [byte 0x01, byte 5] ++ natBytes 0x5744 ++ natBytes 0x0D40 ++ [byte 1]
    ++ [byte 0x02, byte 7] ++ [Config.pollRows, Config.channels, Config.pairs, Config.zones, Config.forceEntries,
      Config.relayQueue, Config.relayResults].map byte
    ++ [byte 0x03, byte 1, byte 1]

/-- The identity descriptor (R191, R200). -/
def identDescriptor : List Byte := identRecords ++ [byte 0xFF, byte 2] ++ wordBytes (check16 identRecords)

/-- The bytes of a response the check covers (R164, R196). -/
def Response.body (r : Response) : List Byte :=
  [r.address, r.code, byte r.status.code, byte r.attention.bits, byte r.attention.mode.code, byte r.payload.length]
    ++ r.payload

/-- The response frame (R163, R196). -/
def Response.bytes (r : Response) : List Byte := r.body ++ wordBytes (check16 r.body)

/-- The bits of the response on the uplink (R162). -/
def Response.levels (r : Response) : List Bool := lineLevels r.bytes

end Sys2Proof.Machine
end

