-- ==== Sys2Proof/Machine/Requests.lean ====
section
/-! DEFINITION. What the owner of each request decides, changes and answers (step 3 of R168), from the payload bytes and the
state. The payload's length has been judged by R169 before; a payload of another length is refused as R169 refuses it. -/

namespace Sys2Proof.Machine

/-- An owner's answer: the status, the payload, and the state after the request (R168). -/
structure Answer where
  status : Status
  payload : List Byte
  state : State
  deriving DecidableEq, Repr

/-- An accepted request: OK with a payload (R170). -/
def accept (payload : List Byte) (s : State) : Answer := { status := .ok, payload := payload, state := s }

/-- A refused request whose rule gives details: nothing changes (R170). -/
def refuseWith (status : Status) (payload : List Byte) (s : State) : Answer :=
  { status := status, payload := payload, state := s }

/-- A refused request without details (R170). -/
def refuse (status : Status) (s : State) : Answer := refuseWith status [] s

/-! ### STATUS, COUNTERS, IDENT, MODE, SAVE, RESTART -/

/-- STATUS (R174). -/
def serveStatus (_ : List Byte) (s : State) : Answer :=
  accept ([byte s.mc.mode.code] ++ wordBytes s.ps.cycle ++ [byte s.mc.reason.code, byte s.cs.state.code]
    ++ natBytes s.cs.saveCount
    ++ [byte s.ru.queue.length, byte s.tb.staged.readySet, byte s.ps.overruns]) s

/-- COUNTERS: returns the counts and clears them (R175). -/
def serveCounters (_ : List Byte) (s : State) : Answer :=
  accept [byte s.ui.errors, byte (bitAt 0 s.ui.overflow), byte s.ps.overruns]
    ((s.setUi { s.ui with errors := 0, overflow := false }).setPs { s.ps with overruns := 0 })

/-- IDENT (R191). -/
def serveIdent (_ : List Byte) (s : State) : Answer := accept identDescriptor s

/-- The mode an accepted MODE leaves, none where it is refused with WRONG_MODE (R180). -/
def modeAfter (target : Mode) (rows : Keyed PollRow) (m : Mode) : Option Mode :=
  match target, m with
  | .survey, .idle => if rows = [] then none else some .survey
  | .survey, .stopping => some .survey
  | .idle, .survey => some .stopping
  | _, m => some m

/-- The target of a MODE request: SURVEY or IDLE (R180). -/
def modeTarget (b : Byte) : Option Mode :=
  if b.toNat = Mode.survey.code then some .survey else if b.toNat = Mode.idle.code then some .idle else none

/-- MODE (R180). -/
def serveMode (payload : List Byte) (s : State) : Answer :=
  match payload with
  | [b] =>
    match modeTarget b with
    | none => refuse .badField s
    | some target =>
      match modeAfter target s.tb.active.poll s.mc.mode with
      | none => refuse .wrongMode s
      | some m => accept [byte m.code] (s.setMc { s.mc with mode := m })
  | _ => refuse .badLength s

/-- What follows the handling of a MODE at once: entry to SURVEY starts a cycle (R25), and the entry to STOPPING that
finds PS in WAITING is followed by the stop (R33). -/
def afterMode (s : State) : State :=
  if s.mc.mode = .survey ∧ s.ps.phase = .halted then openCycle s
  else if s.mc.mode = .stopping ∧ s.ps.phase = .waiting then stop s
  else s

/-- SAVE: the write of the active tables begins, under the next save count (R183). -/
def serveSave (_ : List Byte) (s : State) : Answer :=
  if s.tb.pendingCommit.isSome ∨ s.cs.saveWrite.isSome then refuse .busy s
  else
    let n := satSucc 65535 s.cs.saveCount
    accept (natBytes n) (s.setCs
      { image := .incomplete, state := .damaged, saveCount := n, saveWrite := some (storeImage n s.tb.active) })

/-- RESTART: restart pending is set; a further RESTART changes nothing (R189). -/
def serveRestart (_ : List Byte) (s : State) : Answer :=
  accept [] (s.setMc { s.mc with restartPending := true })

/-! ### LINE_REPORT, SKIP -/

/-- LINE_REPORT (R20). -/
def serveLineReport (payload : List Byte) (s : State) : Answer :=
  match payload with
  | [first, count] =>
    if nodeInRange first.toNat ∧ 1 ≤ count.toNat ∧ count.toNat ≤ 8 then
      let above := s.ti.nodes.filter fun e => decide (first.toNat ≤ e.1)
      let records := above.take count.toNat
      accept (byte (records.length + bitAt 7 (decide (count.toNat < above.length)))
        :: records.flatMap fun e => nodeRecordBytes e.1 e.2) s
    else refuse .badField s
  | _ => refuse .badLength s

/-- SKIP (R34). -/
def serveSkip (payload : List Byte) (s : State) : Answer :=
  match payload with
  | [node, n] =>
    if nodeInRange node.toNat then
      match s.ti.nodes.get node.toNat with
      | none => refuse .notFound s
      | some r => accept [byte r.skipRemaining]
          (s.setTi { s.ti with nodes := s.ti.nodes.put node.toNat { r with skipRemaining := n.toNat } })
    else refuse .badField s
  | _ => refuse .badLength s

/-! ### READ_READINGS, FORCE_SET, FORCE_CLEAR, FORCE_LIST -/

/-- READ_READINGS (R56). -/
def serveReadReadings (payload : List Byte) (s : State) : Answer :=
  match payload with
  | [first, count] =>
    if 1 ≤ count.toNat ∧ count.toNat ≤ 16 ∧ first.toNat + count.toNat ≤ Config.channels then
      accept ((List.range' first.toNat count.toNat).flatMap (readingRecord s)) s
    else refuse .badField s
  | _ => refuse .badLength s

/-- The answer to an accepted FORCE_SET: the count of entries and the entry replaced (R60, R196). -/
def forceSetPayload (count : Nat) (replaced : Option Force) : List Byte :=
  match replaced with
  | none => [byte count, 0, 0, 0, 0]
  | some f => [byte count, 1, byte f.kind.code] ++ intBytes f.value

/-- FORCE_SET (R59, R60). -/
def serveForceSet (payload : List Byte) (s : State) : Answer :=
  match payload with
  | [channel, kind, hi, lo] =>
    match ForceKind.ofCode kind.toNat with
    | none => refuse .badField s
    | some k =>
      if Config.channels ≤ channel.toNat then refuse .badField s
      else
        match s.tb.active.probe.get channel.toNat with
        | none => refuse .notFound s
        | some row =>
          let replaced := s.si.forces.get channel.toNat
          if row.kind.inRange (intOf hi lo) = false then refuse .badField s
          else if Config.forceEntries ≤ s.si.forces.length ∧ replaced = none then refuse .full s
          else
            let forces := s.si.forces.put channel.toNat { value := intOf hi lo, kind := k }
            accept (forceSetPayload forces.length replaced) (s.setSi { s.si with forces := forces })
  | _ => refuse .badLength s

/-- FORCE_CLEAR of one channel or, with FFh, of all (R63, R196). -/
def serveForceClear (payload : List Byte) (s : State) : Answer :=
  match payload with
  | [channel] =>
    if channel.toNat = 0xFF then accept [byte s.si.forces.length] (s.setSi { s.si with forces := [] })
    else if Config.channels ≤ channel.toNat then refuse .badField s
    else
      match s.si.forces.get channel.toNat with
      | none => refuse .notFound s
      | some f => accept (intBytes f.value ++ [byte f.kind.code])
          (s.setSi { s.si with forces := s.si.forces.del channel.toNat })
  | _ => refuse .badLength s

/-- FORCE_LIST (R65). -/
def serveForceList (_ : List Byte) (s : State) : Answer :=
  accept (byte s.si.forces.length
    :: s.si.forces.flatMap fun e => [byte e.1, byte e.2.kind.code] ++ intBytes e.2.value) s

/-! ### READ_PAIRS -/

/-- READ_PAIRS (R106). -/
def serveReadPairs (payload : List Byte) (s : State) : Answer :=
  match payload with
  | [first, count] =>
    if 1 ≤ count.toNat ∧ count.toNat ≤ 8 ∧ first.toNat + count.toNat ≤ Config.pairs then
      accept ((List.range' first.toNat count.toNat).flatMap (pairRecordBytes s)) s
    else refuse .badField s
  | _ => refuse .badLength s

/-! ### SUMMARY_OPEN, SUMMARY_NEXT, SUMMARY_CLOSE, TAKE_ALERTS -/

/-- The sequence goes on past a batch taken at a position, and closes after the FINAL one (R122, R123). -/
def takeBatch (position : Nat) (s : State) : State :=
  if batchIsFinal s.zm.bank position then closeSummary s
  else s.setZm { s.zm with summary := { s.zm.summary with nextRecord := position + 8 } }

/-- SUMMARY_OPEN (R122). -/
def serveSummaryOpen (_ : List Byte) (s : State) : Answer :=
  if s.zm.summary.isOpen then refuse .busy s
  else
    accept (summaryPayload s.zm.bank 0 0)
      (takeBatch 0 (s.setZm { s.zm with summary := { isOpen := true, nextRecord := 0, held := 0, broken := false } }))

/-- The refusal of a request that continues a summary read sequence when none is open: BROKEN once after a break,
NOT_OPEN otherwise (R123, R124). -/
def summaryNotOpen (s : State) : Answer :=
  if s.zm.summary.broken then
    refuse .broken (s.setZm { s.zm with summary := { s.zm.summary with broken := false } })
  else refuse .notOpen s

/-- SUMMARY_NEXT (R123). -/
def serveSummaryNext (_ : List Byte) (s : State) : Answer :=
  if s.zm.summary.isOpen then
    accept (summaryPayload s.zm.bank s.zm.summary.nextRecord s.zm.summary.held) (takeBatch s.zm.summary.nextRecord s)
  else summaryNotOpen s

/-- SUMMARY_CLOSE (R124). -/
def serveSummaryClose (_ : List Byte) (s : State) : Answer :=
  if s.zm.summary.isOpen then accept [] (closeSummary s) else summaryNotOpen s

/-- TAKE_ALERTS (R114). -/
def serveTakeAlerts (_ : List Byte) (s : State) : Answer :=
  let taken := s.zm.alerts.take 8
  let left := s.zm.alerts.drop 8
  accept (byte taken.length :: byte left.length :: taken.flatMap alertBytes) (s.setZm { s.zm with alerts := left })

/-! ### LOAD_OPEN, LOAD_ROWS, LOAD_CLOSE, LOAD_ABANDON, COMMIT, READ_TABLE -/

/-- LOAD_OPEN (R133). -/
def serveLoadOpen (payload : List Byte) (s : State) : Answer :=
  match payload with
  | [table, method] =>
    match TableId.ofCode table.toNat, LoadMethod.ofCode method.toNat with
    | some t, some m =>
      if s.tb.pendingCommit.isSome then refuse .busy s
      else
        let base := s.tb.abandon
        accept [byte t.code, byte m.code, byte (base.startRows t m).count] (s.setTb (base.openLoad t m))
    | _, _ => refuse .badField s
  | _ => refuse .badLength s

/-- LOAD_ROWS (R134, R135). -/
def serveLoadRows (payload : List Byte) (s : State) : Answer :=
  match s.tb.load with
  | none => refuse .notOpen s
  | some l =>
    match loadEntries l.working.table payload with
    | none => refuse .badLength s
    | some entries =>
      match l.working.applyEntries 1 entries with
      | .error position => refuseWith .badField [byte position] s
      | .ok rows => accept [byte rows.count] (s.setTb { s.tb with load := some { l with working := rows } })

/-- LOAD_CLOSE (R136). -/
def serveLoadClose (_ : List Byte) (s : State) : Answer :=
  match s.tb.load with
  | none => refuse .notOpen s
  | some l => accept [byte l.working.table.code, byte l.working.count] (s.setTb (s.tb.closeLoad l))

/-- LOAD_ABANDON (R137). -/
def serveLoadAbandon (_ : List Byte) (s : State) : Answer :=
  if s.tb.load.isSome then accept [] (abandonLoad s) else refuse .notOpen s

/-- COMMIT (R140, R142). -/
def serveCommit (_ : List Byte) (s : State) : Answer :=
  let ready := s.tb.staged.readySet
  if s.tb.pendingCommit.isSome then accept [byte 1, byte ready] s
  else if s.cs.saveWrite.isSome ∨ s.tb.load.isSome then refuse .busy s
  else if ready = 0 then refuse .nothingStaged s
  else
    match crossCheck s.tb.candidate with
    | some (check, index) => refuseWith .checkFailed [byte check, byte index] s
    | none =>
      if s.mc.mode = .idle then accept [byte 0, byte ready] (takeCommit s.tb.candidate s)
      else accept [byte 1, byte ready] (s.setTb { s.tb with pendingCommit := some s.tb.candidate })

/-- The copy of a table that READ_TABLE names: the active copy, or the staged copy's rows, none when it is NONE (R149). -/
def readCopy (s : State) (t : TableId) (staged : Bool) : Option TableRows :=
  if staged then
    match s.tb.staged.copy t with
    | .none => none
    | .opened => s.tb.load.map fun l => l.working
    | .ready rows => some rows
  else some (s.tb.active.copy t)

/-- READ_TABLE (R149, R197). -/
def serveReadTable (payload : List Byte) (s : State) : Answer :=
  match payload with
  | [table, copy, first, count] =>
    match TableId.ofCode table.toNat, flagOf copy with
    | some t, some staged =>
      if 1 ≤ count.toNat ∧ count.toNat ≤ 8 ∧ first.toNat + count.toNat ≤ t.capacity then
        accept (byte (s.tb.staged.copy t).code :: match readCopy s t staged with
          | none => []
          | some rows => (List.range' first.toNat count.toNat).flatMap (tableEntry rows)) s
      else refuse .badField s
    | _, _ => refuse .badField s
  | _ => refuse .badLength s

/-! ### RELAY_SEND, RELAY_COLLECT -/

/-- Where a tag is held (R152, R158): its code is that of R194, and NONE is none. -/
inductive TagPlace where
  | nowhere
  | queued
  | inFlight
  | result
  deriving DecidableEq, Repr

/-- The code of a tag place (R194). -/
def TagPlace.code : TagPlace → Nat
  | .nowhere => 0
  | .queued => 1
  | .inFlight => 2
  | .result => 3

/-- Where a tag is held (R152). -/
def RelayState.place (ru : RelayState) (tag : Nat) : TagPlace :=
  if ru.queue.any (fun q => q.tag == tag) then .queued
  else if ru.inFlight.any (fun q => q.tag == tag) then .inFlight
  else if ru.results.any (fun r => r.tag == tag) then .result
  else .nowhere

/-- The POLL table holds a RELAY row (R152). -/
def hasRelayRow (rows : Keyed PollRow) : Bool := rows.any fun e => e.2.node?.isNone

/-- RELAY_SEND (R152, R153). -/
def serveRelaySend (payload : List Byte) (s : State) : Answer :=
  match payload with
  | tag :: node :: timeout :: bytes =>
    if bytes = [] ∨ 32 < bytes.length then refuse .badLength s
    else if nodeInRange node.toNat = false ∨ timeoutInRange (10 * timeout.toNat) = false then refuse .badField s
    else if s.mc.mode = .idle then refuse .wrongMode s
    else if hasRelayRow s.tb.active.poll = false then refuse .noSlot s
    else if s.ru.place tag.toNat ≠ .nowhere then refuseWith .busy [byte (s.ru.place tag.toNat).code] s
    else if Config.relayQueue ≤ s.ru.queue.length then refuse .full s
    else
      let q : RelayRequest :=
        { tag := tag.toNat, node := node.toNat, replyTimeout := 10 * timeout.toNat, payload := bytes }
      accept [byte (s.ru.queue.length + 1)] (s.setRu { s.ru with queue := s.ru.queue ++ [q] })
  | _ => refuse .badLength s

/-- The payload of an accepted RELAY_COLLECT: the result, the results left, the requests queued (R158, R198). -/
def collectPayload (r : RelayResult) (left queued : Nat) : List Byte := relayResultBytes r ++ [byte left, byte queued]

/-- The result a RELAY_COLLECT finds: the one with a tag, or the oldest (R158). -/
def RelayState.find (ru : RelayState) (tag : Option Nat) : Option RelayResult :=
  match tag with
  | none => ru.results.head?
  | some t => ru.results.find? fun r => r.tag == t

/-- The selector of a RELAY_COLLECT: a tag, or OLDEST (R196). -/
def collectSelector (selector tag : Byte) : Option (Option Nat) :=
  if selector.toNat = 0 then some (some tag.toNat) else if selector.toNat = 1 then some none else none

/-- RELAY_COLLECT (R158). -/
def serveRelayCollect (payload : List Byte) (s : State) : Answer :=
  match payload with
  | [selector, tag] =>
    match collectSelector selector tag with
    | none => refuse .badField s
    | some sel =>
      match s.ru.find sel with
      | none =>
        let place := match sel with
          | some t => s.ru.place t
          | none => .nowhere
        refuseWith .notFound [byte place.code] s
      | some r =>
        let left := s.ru.results.erase r
        accept (collectPayload r left.length s.ru.queue.length) (s.setRu { s.ru with results := left })
  | _ => refuse .badLength s

end Sys2Proof.Machine
end

