-- ==== Sys2Proof/Machine/Uplink.lean ====
section
/-! DEFINITION. The Uplink Interface (chapter 10): which request a code is, the judging of a frame, the handling of a
request, and the events of the uplink line. -/

namespace Sys2Proof.Machine

/-- The requests of the table in R168. -/
inductive Request where
  | status
  | counters
  | ident
  | mode
  | save
  | restart
  | lineReport
  | skip
  | readReadings
  | forceSet
  | forceClear
  | forceList
  | readPairs
  | summaryOpen
  | summaryNext
  | summaryClose
  | takeAlerts
  | loadOpen
  | loadRows
  | loadClose
  | loadAbandon
  | commit
  | readTable
  | relaySend
  | relayCollect
  deriving DecidableEq, Repr

/-- The request code (R196). -/
def Request.code : Request → Byte
  | .status => 0x01
  | .counters => 0x02
  | .ident => 0x03
  | .mode => 0x04
  | .save => 0x05
  | .restart => 0x06
  | .lineReport => 0x10
  | .skip => 0x11
  | .readReadings => 0x20
  | .forceSet => 0x21
  | .forceClear => 0x22
  | .forceList => 0x23
  | .readPairs => 0x30
  | .summaryOpen => 0x40
  | .summaryNext => 0x41
  | .summaryClose => 0x42
  | .takeAlerts => 0x43
  | .loadOpen => 0x50
  | .loadRows => 0x51
  | .loadClose => 0x52
  | .loadAbandon => 0x53
  | .commit => 0x54
  | .readTable => 0x55
  | .relaySend => 0x60
  | .relayCollect => 0x61

/-- Every request of the table in R168. -/
def Request.all : List Request :=
  [.status, .counters, .ident, .mode, .save, .restart, .lineReport, .skip, .readReadings,
   .forceSet, .forceClear, .forceList, .readPairs, .summaryOpen, .summaryNext, .summaryClose, .takeAlerts, .loadOpen,
   .loadRows, .loadClose, .loadAbandon, .commit, .readTable, .relaySend, .relayCollect]

/-- The request of a code, none for an unknown code (R169). -/
def Request.ofCode (c : Byte) : Option Request := Request.all.find? fun r => r.code == c

/-- The least and the greatest payload length of a request (R196). -/
def Request.lengths : Request → Nat × Nat
  | .status => (0, 0)
  | .counters => (0, 0)
  | .ident => (0, 0)
  | .mode => (1, 1)
  | .save => (0, 0)
  | .restart => (0, 0)
  | .lineReport => (2, 2)
  | .skip => (2, 2)
  | .readReadings => (2, 2)
  | .forceSet => (4, 4)
  | .forceClear => (1, 1)
  | .forceList => (0, 0)
  | .readPairs => (2, 2)
  | .summaryOpen => (0, 0)
  | .summaryNext => (0, 0)
  | .summaryClose => (0, 0)
  | .takeAlerts => (0, 0)
  | .loadOpen => (2, 2)
  | .loadRows => (0, 240)
  | .loadClose => (0, 0)
  | .loadAbandon => (0, 0)
  | .commit => (0, 0)
  | .readTable => (4, 4)
  | .relaySend => (3, 240)
  | .relayCollect => (2, 2)

/-- The payload length fits the request (R169). -/
def Request.lengthFits (r : Request) (n : Nat) : Bool := decide (r.lengths.1 ≤ n) && decide (n ≤ r.lengths.2)

/-- What the owner of a request decides, changes and answers (step 3 of R168). -/
def Request.serve : Request → List Byte → State → Answer
  | .status => serveStatus
  | .counters => serveCounters
  | .ident => serveIdent
  | .mode => serveMode
  | .save => serveSave
  | .restart => serveRestart
  | .lineReport => serveLineReport
  | .skip => serveSkip
  | .readReadings => serveReadReadings
  | .forceSet => serveForceSet
  | .forceClear => serveForceClear
  | .forceList => serveForceList
  | .readPairs => serveReadPairs
  | .summaryOpen => serveSummaryOpen
  | .summaryNext => serveSummaryNext
  | .summaryClose => serveSummaryClose
  | .takeAlerts => serveTakeAlerts
  | .loadOpen => serveLoadOpen
  | .loadRows => serveLoadRows
  | .loadClose => serveLoadClose
  | .loadAbandon => serveLoadAbandon
  | .commit => serveCommit
  | .readTable => serveReadTable
  | .relaySend => serveRelaySend
  | .relayCollect => serveRelayCollect

/-- The answer to a request under a code: BAD_REQUEST for an unknown code, BAD_LENGTH for a length outside the request's
range, otherwise the owner's answer (R168, R169). -/
def judgeRequest (r : Option Request) (payload : List Byte) (s : State) : Answer :=
  match r with
  | none => refuse .badRequest s
  | some r => if r.lengthFits payload.length then r.serve payload s else refuse .badLength s

/-- The response is fixed with the attention flags of the state after the request, and the receiver is RESPONDING (R168). -/
def respond (address code : Byte) (ans : Answer) : State :=
  ans.state.setUi { ans.state.ui with
    receiver := .responding
    response := some
      { address := address, code := code, status := ans.status, attention := attentionOf ans.state
        payload := ans.payload } }

/-- What follows the handling of a request at once: only a MODE has events of the Poll Scheduler behind it (R180). -/
def Request.follow (r : Option Request) (s : State) : State := if r = some .mode then afterMode s else s

/-- The handling of a request (R168), and what follows it at once. -/
def handleRequest (address code : Byte) (r : Option Request) (payload : List Byte) (s : State) : State :=
  Request.follow r (respond address code (judgeRequest r payload s))

/-- The first start bit in READY begins a frame, and the receiver enters RECEIVING (R166). -/
def startBit (s : State) : State :=
  if s.ui.receiver = .ready then s.setUi { s.ui with receiver := .receiving } else s

/-- What befalls a frame that is received: in READY its first start bit begins it, inside the same step, since the table has
no row for the start bit (DESIGN CHOICE, safe, notes/assumptions/6.md). A receiver in any other state than RECEIVING after
that takes no frame, and nothing changes (R165, R166). -/
def receiving (f : State → State) (s : State) : State :=
  if (startBit s).ui.receiver = .receiving then f (startBit s) else s

/-- A frame is discarded without a response and counted, and the receiver waits for idle (R166, R167). -/
def discardFrame (s : State) : State := s.setUi { s.ui.countError with receiver := .waitIdle }

/-- A frame addressed to the part (R167). -/
def addressed (s : State) (address : Byte) : Bool := decide (address.toNat = s.tb.active.general.uplinkAddress)

/-- What is done with a complete frame whose check is right (R166, R167): ignored when it is for another address, handled
otherwise. A payload of more than 240 bytes is a length defect. -/
def judgeFrame (address code : Byte) (r : Option Request) (payload : List Byte) (s : State) : State :=
  if 240 < payload.length then discardFrame s
  else if addressed s address then handleRequest address code r payload s
  else s.setUi { s.ui with receiver := .other }

/-- A complete frame whose check is right arrives (R166, R167). -/
def frameArrives (address code : Byte) (r : Option Request) (payload : List Byte) (s : State) : State :=
  receiving (judgeFrame address code r payload) s

/-- The bytes of a request frame the check covers (R163, R164). -/
def requestBody (address code : Byte) (payload : List Byte) : List Byte :=
  [address, code, byte payload.length] ++ payload

/-- A complete frame with the check bytes received (R167): it is discarded and counted when they differ from the check
computed over its bytes. -/
def frameWithCheck (address code : Byte) (payload : List Byte) (check : Half) (s : State) : State :=
  if 240 < payload.length ∨ check ≠ check16 (requestBody address code payload) then receiving discardFrame s
  else frameArrives address code (Request.ofCode code) payload s

/-- A frame that is not complete is defective (R166). -/
def frameDefect (s : State) : State := receiving discardFrame s

/-- SPACE is entered, with the bytes of the frame that it holds, if one was being received (R176). -/
def enterSpace (held : Option (List Byte)) (s : State) : State :=
  s.setUi { s.ui with receiver := .space, heldFrame := held }

/-- A break character: the receiver enters SPACE and holds the frame being received (R176). In READY the break character's
own start bit has begun that frame (R166), so SPACE holds one there too. -/
def breakSeen (received : List Byte) (s : State) : State :=
  match s.ui.receiver with
  | .waitIdle => enterSpace none s
  | .other => enterSpace none s
  | .ready => receiving (enterSpace (some received)) s
  | .receiving => receiving (enterSpace (some received)) s
  | .off => s
  | .space => s
  | .broken => s
  | .responding => s

/-- The line returns to mark before 20 ms of space: a held frame is defective (R176). -/
def spaceEnds (s : State) : State :=
  if s.ui.receiver = .space then
    let u := if s.ui.heldFrame.isSome then s.ui.countError else s.ui
    s.setUi { u with receiver := .waitIdle, heldFrame := none }
  else s

/-- A line break (R176, R177): an open load sequence is abandoned, an open summary sequence is closed with the broken
marker set, a held frame goes uncounted, and the receiver is BROKEN. -/
def lineBreakTaken (s : State) : State :=
  if s.ui.receiver = .space then
    let s := breakSummary (abandonLoad s)
    s.setUi { s.ui with receiver := .broken, heldFrame := none }
  else s

/-- A receiver state that is left for another at an event (R166, R176). -/
def receiverMoves (fromState toState : Receiver) (s : State) : State :=
  if s.ui.receiver = fromState then s.setUi { s.ui with receiver := toState } else s

end Sys2Proof.Machine
end

