-- ==== Sys2Proof/Machine/RequestCommands.lean ====
section
/-! DEFINITION. The meanings of the requests: each is a complete frame whose check is right, with its request code, its
address and its payload bytes (R163, R196). What its owner does is in Machine/Requests.lean. -/

namespace Sys2Proof.Machine

/-- STATUS (R174; R167, R168). -/
def execStatus (address : Byte) (payload : List Byte) (s : State) : Host.Outcome State Fault Refusal :=
  event (frameArrives address 0x01 (some .status) payload) s

/-- COUNTERS (R175; R167, R168). -/
def execCounters (address : Byte) (payload : List Byte) (s : State) : Host.Outcome State Fault Refusal :=
  event (frameArrives address 0x02 (some .counters) payload) s

/-- IDENT (R191; R167, R168). -/
def execIdent (address : Byte) (payload : List Byte) (s : State) : Host.Outcome State Fault Refusal :=
  event (frameArrives address 0x03 (some .ident) payload) s

/-- MODE (R180; R167, R168). -/
def execMode (address : Byte) (payload : List Byte) (s : State) : Host.Outcome State Fault Refusal :=
  event (frameArrives address 0x04 (some .mode) payload) s

/-- SAVE (R183; R167, R168). -/
def execSave (address : Byte) (payload : List Byte) (s : State) : Host.Outcome State Fault Refusal :=
  event (frameArrives address 0x05 (some .save) payload) s

/-- RESTART (R189; R167, R168). -/
def execRestart (address : Byte) (payload : List Byte) (s : State) : Host.Outcome State Fault Refusal :=
  event (frameArrives address 0x06 (some .restart) payload) s

/-- LINE_REPORT (R20; R167, R168). -/
def execLineReport (address : Byte) (payload : List Byte) (s : State) : Host.Outcome State Fault Refusal :=
  event (frameArrives address 0x10 (some .lineReport) payload) s

/-- SKIP (R34; R167, R168). -/
def execSkip (address : Byte) (payload : List Byte) (s : State) : Host.Outcome State Fault Refusal :=
  event (frameArrives address 0x11 (some .skip) payload) s

/-- READ_READINGS (R56; R167, R168). -/
def execReadReadings (address : Byte) (payload : List Byte) (s : State) : Host.Outcome State Fault Refusal :=
  event (frameArrives address 0x20 (some .readReadings) payload) s

/-- FORCE_SET (R59, R60; R167, R168). -/
def execForceSet (address : Byte) (payload : List Byte) (s : State) : Host.Outcome State Fault Refusal :=
  event (frameArrives address 0x21 (some .forceSet) payload) s

/-- FORCE_CLEAR (R63; R167, R168). -/
def execForceClear (address : Byte) (payload : List Byte) (s : State) : Host.Outcome State Fault Refusal :=
  event (frameArrives address 0x22 (some .forceClear) payload) s

/-- FORCE_LIST (R65; R167, R168). -/
def execForceList (address : Byte) (payload : List Byte) (s : State) : Host.Outcome State Fault Refusal :=
  event (frameArrives address 0x23 (some .forceList) payload) s

/-- READ_PAIRS (R106; R167, R168). -/
def execReadPairs (address : Byte) (payload : List Byte) (s : State) : Host.Outcome State Fault Refusal :=
  event (frameArrives address 0x30 (some .readPairs) payload) s

/-- SUMMARY_OPEN (R122; R167, R168). -/
def execSummaryOpen (address : Byte) (payload : List Byte) (s : State) : Host.Outcome State Fault Refusal :=
  event (frameArrives address 0x40 (some .summaryOpen) payload) s

/-- SUMMARY_NEXT (R123; R167, R168). -/
def execSummaryNext (address : Byte) (payload : List Byte) (s : State) : Host.Outcome State Fault Refusal :=
  event (frameArrives address 0x41 (some .summaryNext) payload) s

/-- SUMMARY_CLOSE (R124; R167, R168). -/
def execSummaryClose (address : Byte) (payload : List Byte) (s : State) : Host.Outcome State Fault Refusal :=
  event (frameArrives address 0x42 (some .summaryClose) payload) s

/-- TAKE_ALERTS (R114; R167, R168). -/
def execTakeAlerts (address : Byte) (payload : List Byte) (s : State) : Host.Outcome State Fault Refusal :=
  event (frameArrives address 0x43 (some .takeAlerts) payload) s

/-- LOAD_OPEN (R133; R167, R168). -/
def execLoadOpen (address : Byte) (payload : List Byte) (s : State) : Host.Outcome State Fault Refusal :=
  event (frameArrives address 0x50 (some .loadOpen) payload) s

/-- LOAD_ROWS (R134, R135; R167, R168). -/
def execLoadRows (address : Byte) (payload : List Byte) (s : State) : Host.Outcome State Fault Refusal :=
  event (frameArrives address 0x51 (some .loadRows) payload) s

/-- LOAD_CLOSE (R136; R167, R168). -/
def execLoadClose (address : Byte) (payload : List Byte) (s : State) : Host.Outcome State Fault Refusal :=
  event (frameArrives address 0x52 (some .loadClose) payload) s

/-- LOAD_ABANDON (R137; R167, R168). -/
def execLoadAbandon (address : Byte) (payload : List Byte) (s : State) : Host.Outcome State Fault Refusal :=
  event (frameArrives address 0x53 (some .loadAbandon) payload) s

/-- COMMIT (R140, R142; R167, R168). -/
def execCommit (address : Byte) (payload : List Byte) (s : State) : Host.Outcome State Fault Refusal :=
  event (frameArrives address 0x54 (some .commit) payload) s

/-- READ_TABLE (R149; R167, R168). -/
def execReadTable (address : Byte) (payload : List Byte) (s : State) : Host.Outcome State Fault Refusal :=
  event (frameArrives address 0x55 (some .readTable) payload) s

/-- RELAY_SEND (R152, R153; R167, R168). -/
def execRelaySend (address : Byte) (payload : List Byte) (s : State) : Host.Outcome State Fault Refusal :=
  event (frameArrives address 0x60 (some .relaySend) payload) s

/-- RELAY_COLLECT (R158; R167, R168). -/
def execRelayCollect (address : Byte) (payload : List Byte) (s : State) : Host.Outcome State Fault Refusal :=
  event (frameArrives address 0x61 (some .relayCollect) payload) s

end Sys2Proof.Machine
end

