-- ==== Sys2Proof/Machine/TrunkCommands.lean ====
section
/-! DEFINITION. The meanings of the cycle timer's expiry and of the trunk's events (R1, R6 to R9, R24). An event that cannot
arise in the present state leaves it as it was (notes/assumptions/2.md). -/

namespace Sys2Proof.Machine

/-- The expiry of the cycle timer (R24): in WAITING the next cycle starts, in WALKING the timer becomes EXPIRED. A timer
that does not run does not expire. -/
def timerExpires (s : State) : State :=
  match s.ps.timer with
  | .stopped => s
  | .expired => s
  | .running _ =>
    match s.ps.phase with
    | .waiting => openCycle s
    | .walking => s.setPs { s.ps with timer := .expired }
    | .halted => s

/-- The frame of the exchange that is due begins on both lines (R1). -/
def frameStarts (s : State) : State :=
  match s.ti.exchange with
  | none => s
  | some x =>
    match x.phase with
    | .due => s.setTi { s.ti with dirA := true, dirB := true, exchange := some { x with phase := .sending } }
    | .sending => s
    | .listening => s

/-- The frame being sent has ended: the lines are released and both receivers listen (R1, R6). -/
def frameSent (s : State) : State :=
  match s.ti.exchange with
  | none => s
  | some x =>
    match x.phase with
    | .sending => s.setTi { s.ti with dirA := false, dirB := false, exchange := some { x with phase := .listening } }
    | .due => s
    | .listening => s

/-- The state of a line of an exchange. -/
def Exchange.line (x : Exchange) : Line → LineState
  | .a => x.lineA
  | .b => x.lineB

/-- The exchange with a line's state replaced. -/
def Exchange.setLine (x : Exchange) (l : Line) (st : LineState) : Exchange :=
  match l with
  | .a => { x with lineA := st }
  | .b => { x with lineB := st }

/-- What a line's state becomes when what it has shown is graded (R7): the frame's conclusion where it has ended, a frame
started where it has not ended, and `unstarted` where no frame has started. -/
def FrameEnd.lineState (unstarted : LineState) : FrameEnd → LineState
  | .ended c => .concluded c
  | .unfinished => .started
  | .notStarted => unstarted

/-- A line's state after it has shown activity (R7). A line that has concluded disregards it. Of a line whose frame has
started, what is shown holds the frame from its first byte on. -/
def LineState.hear (node : Nat) (shown : List LineActivity) (st : LineState) : LineState :=
  match st with
  | .concluded c => .concluded c
  | .listening seen => (gradeLine node seen shown).lineState (.listening (seen || !shown.isEmpty))
  | .started => (gradeLine node false shown).lineState .started

/-- A line's state after a gap has ended its frame early: LENGTH (R7, R9). -/
def LineState.gap (st : LineState) : LineState :=
  match st with
  | .concluded c => .concluded c
  | .listening _ => .concluded .length
  | .started => .concluded .length

/-- A line's state at the reply timeout (R8, R9): SILENT or COLLISION where no frame has started. -/
def LineState.timeout (sight : TimeoutSight) (st : LineState) : LineState :=
  match st with
  | .concluded c => .concluded c
  | .started => .started
  | .listening seen =>
    match sight with
    | .started => .started
    | .activity => .concluded .collision
    | .quiet => if seen then .concluded .collision else .concluded .silent

/-- A change of the lines of an exchange whose reply is awaited, after which the exchange may complete (R8). With no such
exchange, activity is disregarded (R1). -/
def whileListening (f : Exchange → Exchange) (s : State) : State :=
  match s.ti.exchange with
  | none => s
  | some x =>
    match x.phase with
    | .listening => settleExchange (f x) s
    | .due => s
    | .sending => s

/-- Activity on a line that ends a frame, as its receiver samples it (R6 to R9). -/
def Exchange.hear (l : Line) (shown : List LineSamples) (x : Exchange) : Exchange :=
  x.setLine l ((x.line l).hear x.node (shown.map receivedActivity))

/-- A gap on a line (R7). -/
def Exchange.gap (l : Line) (x : Exchange) : Exchange := x.setLine l (x.line l).gap

/-- The reply timeout, which comes once in an exchange (R6, R8). -/
def Exchange.timeout (sightA sightB : TimeoutSight) (x : Exchange) : Exchange :=
  if x.timedOut then x
  else { x with timedOut := true, lineA := x.lineA.timeout sightA, lineB := x.lineB.timeout sightB }

/-- CYCLE_TIMER_EXPIRY (R24). -/
def execCycleTimerExpiry (s : State) : Host.Outcome State Fault Refusal := event timerExpires s

/-- TRUNK_FRAME_SEND (R1). -/
def execTrunkFrameSend (s : State) : Host.Outcome State Fault Refusal := event frameStarts s

/-- TRUNK_FRAME_END (R1, R6). -/
def execTrunkFrameEnd (s : State) : Host.Outcome State Fault Refusal := event frameSent s

/-- LINE_FRAME_ENDS (R6 to R9). -/
def execLineFrameEnds (line : Line) (shown : List LineSamples) (s : State) : Host.Outcome State Fault Refusal :=
  event (whileListening (Exchange.hear line shown)) s

/-- LINE_FRAME_GAP (R7). -/
def execLineFrameGap (line : Line) (s : State) : Host.Outcome State Fault Refusal :=
  event (whileListening (Exchange.gap line)) s

/-- REPLY_TIMEOUT (R8). -/
def execReplyTimeout (sightA sightB : TimeoutSight) (s : State) : Host.Outcome State Fault Refusal :=
  event (whileListening (Exchange.timeout sightA sightB)) s

end Sys2Proof.Machine
end

