-- ==== Sys2Proof/Machine/UplinkCommands.lean ====
section
/-! DEFINITION. The meanings of the uplink line's events (R162, R166, R167, R169, R176, R177) and of the load sequence's
timer (R138). An event that cannot arise in the present state leaves it as it was (notes/assumptions/2.md). -/

namespace Sys2Proof.Machine

/-- LOAD_TIMEOUT: the inactivity timer abandons an open load sequence; with none open it is STOPPED (R137, R138). -/
def execLoadTimeout (s : State) : Host.Outcome State Fault Refusal := event abandonLoad s

/-- UPLINK_IDLE_SEEN: 3 byte-times of mark in WAIT_IDLE (R166). -/
def execUplinkIdleSeen (s : State) : Host.Outcome State Fault Refusal := event (receiverMoves .waitIdle .ready) s

/-- OTHER_STATION_DONE: the other station's response has been passed over (R166). -/
def execOtherStationDone (s : State) : Host.Outcome State Fault Refusal := event (receiverMoves .other .waitIdle) s

/-- UPLINK_FRAME_GAP: more than 2 byte-times within a frame (R166). -/
def execUplinkFrameGap (s : State) : Host.Outcome State Fault Refusal := event frameDefect s

/-- UPLINK_FRAME_DEFECT: a length byte above 240 or a framing error (R166). Both are counted alike. -/
def execUplinkFrameDefect (_ : UplinkDefect) (s : State) : Host.Outcome State Fault Refusal := event frameDefect s

/-- UPLINK_CHECK_FAIL: a complete frame with the check bytes received (R164, R167). -/
def execUplinkCheckFail (address code : Byte) (payload : List Byte) (check : Half) (s : State) :
    Host.Outcome State Fault Refusal :=
  event (frameWithCheck address code payload check) s

/-- FRAME_FOR_OTHER_STATION: a complete frame whose check is right. When its address is the part's after all, R167 has it
handled (notes/assumptions/14.md). -/
def execFrameForOtherStation (address code : Byte) (payload : List Byte) (s : State) :
    Host.Outcome State Fault Refusal :=
  event (frameArrives address code (Request.ofCode code) payload) s

/-- UNKNOWN_REQUEST_CODE: a complete frame whose code is no request's is answered BAD_REQUEST (R169). -/
def execUnknownRequestCode (address code : Byte) (payload : List Byte) (s : State) :
    Host.Outcome State Fault Refusal :=
  event (frameArrives address code (Request.ofCode code) payload) s

/-- RESPONSE_SEND: the fixed response starts, and the direction control is asserted (R162). -/
def execResponseSend (s : State) : Host.Outcome State Fault Refusal :=
  event (fun s => if s.ui.receiver = .responding ∧ s.ui.response.isSome then s.setUi { s.ui with dir := true } else s) s

/-- RESPONSE_SENT: the direction control is released and the receiver enters WAIT_IDLE (R162, R168). When a restart is
pending, its own response has now been sent (R189). -/
def execResponseSent (s : State) : Host.Outcome State Fault Refusal :=
  event (fun s => if s.ui.receiver = .responding ∧ s.ui.dir = true then
      (s.setUi { s.ui with receiver := .waitIdle, response := none, dir := false }).setMc
        { s.mc with restartAnswered := s.mc.restartPending }
    else s) s

/-- BREAK_CHARACTER: a byte all at space, with the bytes of the frame it interrupts (R176). -/
def execBreakCharacter (received : List Byte) (s : State) : Host.Outcome State Fault Refusal :=
  event (breakSeen received) s

/-- SPACE_ENDS_EARLY: mark before 20 ms of space (R176). -/
def execSpaceEndsEarly (s : State) : Host.Outcome State Fault Refusal := event spaceEnds s

/-- LINE_BREAK: 20 ms of space (R176, R177). -/
def execLineBreak (s : State) : Host.Outcome State Fault Refusal := event lineBreakTaken s

/-- BREAK_END: the line returns to mark in BROKEN (R176). -/
def execBreakEnd (s : State) : Host.Outcome State Fault Refusal := event (receiverMoves .broken .waitIdle) s

end Sys2Proof.Machine
end

