-- ==== Sys2Proof/Machine/Dispatch.lean ====
section
/-! DEFINITION. The effect of every command on everything but the queue: one arm per row of spec/opcode_table.json. -/

namespace Sys2Proof.Machine

def exec (i : Instr) (s : State) : Host.Outcome State Fault Refusal :=
  match i with
  | .powerOn => Sys2Proof.Machine.execPowerOn s
  | .resetAssert => Sys2Proof.Machine.execResetAssert s
  | .resetRelease => Sys2Proof.Machine.execResetRelease s
  | .startUpEnd => Sys2Proof.Machine.execStartUpEnd s
  | .restartTaken => Sys2Proof.Machine.execRestartTaken s
  | .saveWriteEnd result => Sys2Proof.Machine.execSaveWriteEnd result s
  | .cycleTimerExpiry => Sys2Proof.Machine.execCycleTimerExpiry s
  | .trunkFrameSend => Sys2Proof.Machine.execTrunkFrameSend s
  | .trunkFrameEnd => Sys2Proof.Machine.execTrunkFrameEnd s
  | .lineFrameEnds line shown => Sys2Proof.Machine.execLineFrameEnds line shown s
  | .lineFrameGap line => Sys2Proof.Machine.execLineFrameGap line s
  | .replyTimeout sightA sightB => Sys2Proof.Machine.execReplyTimeout sightA sightB s
  | .loadTimeout => Sys2Proof.Machine.execLoadTimeout s
  | .uplinkIdleSeen => Sys2Proof.Machine.execUplinkIdleSeen s
  | .otherStationDone => Sys2Proof.Machine.execOtherStationDone s
  | .uplinkFrameGap => Sys2Proof.Machine.execUplinkFrameGap s
  | .uplinkFrameDefect defect => Sys2Proof.Machine.execUplinkFrameDefect defect s
  | .uplinkCheckFail address code payload check => Sys2Proof.Machine.execUplinkCheckFail address code payload check s
  | .frameForOtherStation address code payload => Sys2Proof.Machine.execFrameForOtherStation address code payload s
  | .unknownRequestCode address code payload => Sys2Proof.Machine.execUnknownRequestCode address code payload s
  | .responseSend => Sys2Proof.Machine.execResponseSend s
  | .responseSent => Sys2Proof.Machine.execResponseSent s
  | .breakCharacter received => Sys2Proof.Machine.execBreakCharacter received s
  | .spaceEndsEarly => Sys2Proof.Machine.execSpaceEndsEarly s
  | .lineBreak => Sys2Proof.Machine.execLineBreak s
  | .breakEnd => Sys2Proof.Machine.execBreakEnd s
  | .status address payload => Sys2Proof.Machine.execStatus address payload s
  | .counters address payload => Sys2Proof.Machine.execCounters address payload s
  | .ident address payload => Sys2Proof.Machine.execIdent address payload s
  | .mode address payload => Sys2Proof.Machine.execMode address payload s
  | .save address payload => Sys2Proof.Machine.execSave address payload s
  | .restart address payload => Sys2Proof.Machine.execRestart address payload s
  | .lineReport address payload => Sys2Proof.Machine.execLineReport address payload s
  | .skip address payload => Sys2Proof.Machine.execSkip address payload s
  | .readReadings address payload => Sys2Proof.Machine.execReadReadings address payload s
  | .forceSet address payload => Sys2Proof.Machine.execForceSet address payload s
  | .forceClear address payload => Sys2Proof.Machine.execForceClear address payload s
  | .forceList address payload => Sys2Proof.Machine.execForceList address payload s
  | .readPairs address payload => Sys2Proof.Machine.execReadPairs address payload s
  | .summaryOpen address payload => Sys2Proof.Machine.execSummaryOpen address payload s
  | .summaryNext address payload => Sys2Proof.Machine.execSummaryNext address payload s
  | .summaryClose address payload => Sys2Proof.Machine.execSummaryClose address payload s
  | .takeAlerts address payload => Sys2Proof.Machine.execTakeAlerts address payload s
  | .loadOpen address payload => Sys2Proof.Machine.execLoadOpen address payload s
  | .loadRows address payload => Sys2Proof.Machine.execLoadRows address payload s
  | .loadClose address payload => Sys2Proof.Machine.execLoadClose address payload s
  | .loadAbandon address payload => Sys2Proof.Machine.execLoadAbandon address payload s
  | .commit address payload => Sys2Proof.Machine.execCommit address payload s
  | .readTable address payload => Sys2Proof.Machine.execReadTable address payload s
  | .relaySend address payload => Sys2Proof.Machine.execRelaySend address payload s
  | .relayCollect address payload => Sys2Proof.Machine.execRelayCollect address payload s
  | .powerLoss => Sys2Proof.Machine.execPowerLoss s

end Sys2Proof.Machine
end

