-- ==== Sys2Proof/Machine/Node.lean ====
section
/-! DEFINITION. What the part relies on in a sensor node (R4, R5), and the reply frame a node sends (R3, R195). A node is no
part of the machine: these are functions outside State, against which the part's grading and toggle can be stated
(notes/assumptions/21.md). -/

namespace Sys2Proof.Machine

/-- A node's held block: its newest sample block not yet known to have been taken, with its toggle (R4). -/
structure HeldBlock where
  records : List SampleRecord
  toggle : Bool
  deriving DecidableEq, Repr

/-- A node's answer to a POLL frame with expect toggle `e`, given the block it holds, the new samples it has, and its fault
code while it is in internal fault; with the block it then holds (R4, R5). A node in internal fault keeps the block it
holds, whatever toggle the poll carries: R4 and R5 leave that open. DESIGN CHOICE, safe (notes/assumptions/21.md). -/
def nodeAnswersPoll (held : Option HeldBlock) (news : Option (List SampleRecord)) (faultCode : Option Nat) (e : Bool) :
    Reply × Option HeldBlock :=
  match faultCode with
  | some code => (.fault code, held)
  | none =>
    match held.filter (fun h => h.toggle == e) with
    | some h => (.data e h.records, some h)
    | none =>
      match news with
      | some records => (.data e records, some { records := records, toggle := e })
      | none => (.empty, none)

/-- A node's answer to a RELAY frame: an ANSWER, or a FAULT while it is in internal fault. Its held block is left as it
was (R5). -/
def nodeAnswersRelay (answer : List Byte) (faultCode : Option Nat) : Reply :=
  match faultCode with
  | some code => .fault code
  | none => .answer answer

/-- A sample record as bytes (R195). -/
def SampleRecord.bytes (x : SampleRecord) : List Byte := [byte x.slot, byte x.status] ++ natBytes x.raw

/-- The toggle a reply frame carries: meaningful in DATA alone (R3). -/
def Reply.toggle : Reply → Bool
  | .data t _ => t
  | .empty => false
  | .fault _ => false
  | .answer _ => false

/-- The payload of a reply frame (R3, R195). -/
def Reply.payload : Reply → List Byte
  | .data _ records => records.flatMap SampleRecord.bytes
  | .empty => []
  | .fault code => [byte code]
  | .answer bytes => bytes

/-- A reply a node can send (R3): 1 to 4 sample records whose fields fit their bytes, a fault code 1..255, or an answer of
at most 32 bytes. -/
def Reply.sendable : Reply → Bool
  | .data _ records => decide (1 ≤ records.length) && decide (records.length ≤ 4)
      && records.all fun x => decide (x.slot ≤ 255) && decide (x.status ≤ 255) && decide (x.raw ≤ 65535)
  | .empty => true
  | .fault code => decide (1 ≤ code) && decide (code ≤ 255)
  | .answer bytes => decide (bytes.length ≤ 32)

/-- The node, control, length and payload bytes of a reply frame (R3, R195). -/
def replyBody (node : Nat) (r : Reply) : List Byte :=
  [byte node, byte (r.kind.code + bitAt 7 r.toggle), byte r.payload.length] ++ r.payload

/-- The reply frame of a node (R3, R195). -/
def replyFrame (node : Nat) (r : Reply) : List Byte :=
  0x5A#8 :: (replyBody node r ++ wordBytes (check16 (replyBody node r)))

/-- Bytes without gaps, the first of them after at least 3 byte-times of idle, each as `activity` has it (R4). -/
def spaced {α : Type} (activity : Idle → Byte → α) : List Byte → List α
  | [] => []
  | b :: bs => activity .long b :: bs.map (activity .short)

/-- Bytes as a receiver takes them from a clean line (R4, R6): none doubtful, none with a framing error. -/
def cleanly : List Byte → List LineActivity :=
  spaced fun idle v => { idle := idle, byte := some { value := v, doubtful := false, framing := false } }

/-- Bytes as a receiver samples them on a clean line: both samples of every bit as the node drives it (R4, R6). -/
def driven : List Byte → List LineSamples :=
  spaced fun idle v => { idle := idle, byte := some { early := lineWord v, late := lineWord v } }

end Sys2Proof.Machine
end

