-- ==== Sys2Proof/Safety.lean ====
section
/-! DEFINITION. What a sound state of the DP-64 is: the laws the manual states of its tables, records, queues and phases,
as predicates that every step keeps; and when a request is heard. -/

namespace Sys2Proof.Machine

/-! ### The tables -/

/-- A table's rows: indices ascending and within the table, every row well formed (R129, R131). -/
abbrev rowsSound {α : Type} (capacity : Nat) (ok : α → Bool) (t : Keyed α) : Prop :=
  Keyed.wf t ∧ ∀ e ∈ t, e.1 < capacity ∧ ok e.2 = true

/-- The rows of one table are sound. -/
def TableRows.sound : TableRows → Bool
  | .poll t => decide (rowsSound Config.pollRows PollRow.wellFormed t)
  | .probe t => decide (rowsSound Config.channels ProbeRow.wellFormed t)
  | .pair t => decide (rowsSound Config.pairs PairRow.wellFormed t)
  | .zone t => decide (rowsSound Config.zones ZoneRow.wellFormed t)
  | .general r => r.wellFormed

/-- The five tables of a set are sound. -/
abbrev Tables.sound (t : Tables) : Prop :=
  rowsSound Config.pollRows PollRow.wellFormed t.poll ∧
  rowsSound Config.channels ProbeRow.wellFormed t.probe ∧
  rowsSound Config.pairs PairRow.wellFormed t.pair ∧
  rowsSound Config.zones ZoneRow.wellFormed t.zone ∧
  t.general.wellFormed = true

/-- A set of tables that passes the row checks and the five cross checks (R131, R141). -/
abbrev Tables.installable (t : Tables) : Prop := t.sound ∧ crossCheck t = none

/-- The READY staged copies are sound. -/
abbrev StagedTables.sound (c : StagedTables) : Prop :=
  (∀ t ∈ c.poll.rows?, rowsSound Config.pollRows PollRow.wellFormed t) ∧
  (∀ t ∈ c.probe.rows?, rowsSound Config.channels ProbeRow.wellFormed t) ∧
  (∀ t ∈ c.pair.rows?, rowsSound Config.pairs PairRow.wellFormed t) ∧
  (∀ t ∈ c.zone.rows?, rowsSound Config.zones ZoneRow.wellFormed t) ∧
  (∀ r ∈ c.general.rows?, r.wellFormed = true)

/-- The Table Store is sound (R131, R141 to R143): the active tables and a pending candidate set pass every check, and
every other row it holds is well formed. -/
abbrev TablesSound (s : State) : Prop :=
  s.tb.active.installable ∧
  s.tb.staged.sound ∧
  (∀ l ∈ s.tb.load, l.working.sound = true ∧ ∀ p ∈ l.prior, p.sound = true) ∧
  (∀ c ∈ s.tb.pendingCommit, c.installable)

/-- What may be in progress together (R129, R132, R140, R142, R143): exactly the table of an open load sequence is OPEN and
its prior staged is of that table; a pending commit excludes a load sequence and a SAVE, and is pending in SURVEY or
STOPPING only; in START the uplink receiver is OFF; and while a SAVE is in progress the memory holds an incomplete image and
the store is DAMAGED (R183, R185). -/
abbrev WorkExclusive (s : State) : Prop :=
  (∀ t ∈ [TableId.poll, .probe, .pair, .zone, .general],
    (s.tb.staged.copy t).code = 1 ↔ s.tb.load.map (fun l => l.working.table) = some t) ∧
  (∀ l ∈ s.tb.load, ∀ p ∈ l.prior, p.table = l.working.table) ∧
  (s.tb.pendingCommit.isSome = true →
    s.tb.load = none ∧ s.cs.saveWrite = none ∧ (s.mc.mode = .survey ∨ s.mc.mode = .stopping)) ∧
  (s.mc.mode = .start → s.ui.receiver = .off) ∧
  (s.cs.saveWrite.isSome = true → s.cs.image = .incomplete ∧ s.cs.state = .damaged)

/-! ### The records -/

/-- Outside START the records follow the active tables (R17, R39, R85, R109): a Node State record for each node of a POLL
row, a reading for each PROBE row, a Pair Status record for each PAIR row, a Zone Status record for each ZONE row. -/
abbrev RecordsFollowTables (s : State) : Prop :=
  s.mc.mode ≠ .start →
    Keyed.wf s.ti.nodes ∧
    (∀ n ∈ s.ti.nodes.keys, n ∈ pollNodes s.tb.active.poll) ∧
    (∀ n ∈ pollNodes s.tb.active.poll, n ∈ s.ti.nodes.keys) ∧
    s.si.readings.keys = s.tb.active.probe.keys ∧
    s.pe.pairs.keys = s.tb.active.pair.keys ∧
    s.zm.zones.keys = s.tb.active.zone.keys

/-- A reading of a channel keeps the laws of R39 and R40: a value and a stamp exactly when the quality is not NONE, the
value within the kind's range, and a fresh count above zero exactly while it is usable, at most fresh_cycles. -/
abbrev readingSound (row : ProbeRow) (r : Reading) : Prop :=
  (r.value = none ↔ r.quality = .none) ∧
  (r.stamp = none ↔ r.quality = .none) ∧
  (∀ v ∈ r.value, row.kind.inRange v = true) ∧
  (0 < r.fresh ↔ r.quality.usable = true) ∧
  r.fresh ≤ row.freshCycles

/-- Sample Intake is sound (R39, R40, R58): every reading keeps its laws, and the Force List holds at most 16 entries, one a
channel, each within the range of its channel's kind. -/
abbrev IntakeSound (s : State) : Prop :=
  (∀ e ∈ s.si.readings, ∃ row ∈ s.tb.active.probe.get e.1, readingSound row e.2) ∧
  Keyed.wf s.si.forces ∧ s.si.forces.length ≤ Config.forceEntries ∧
  (∀ e ∈ s.si.forces, ∃ row ∈ s.tb.active.probe.get e.1, row.kind.inRange e.2.value = true)

/-- A Pair Status record keeps the laws of R85, R87 and R99: an UNKNOWN pair has no history and no runs, a judged one has
a last_m, and the history and the runs keep their bounds. -/
abbrev pairSound (r : PairRecord) : Prop :=
  (r.state.level? = none → r.history = [] ∧ r.riseRun = 0 ∧ r.fallRun = 0) ∧
  (r.state.level? ≠ none → r.lastM.isSome = true) ∧
  r.history.length ≤ Config.historyLength ∧ r.riseRun ≤ 15 ∧ r.fallRun ≤ 15

/-- A pair that is not UNKNOWN has all three of its input readings usable (R86). -/
abbrev JudgedPairsUsable (s : State) : Prop :=
  ∀ e ∈ s.pe.pairs, e.2.state.level? ≠ none →
    ∃ row ∈ s.tb.active.pair.get e.1, ∀ c ∈ row.channels, (s.reading c).quality.usable = true

/-- Throughout IDLE nothing is watched (R54, R92, R103): no reading is usable and every pair is UNKNOWN. -/
abbrev IdleWatchesNothing (s : State) : Prop :=
  s.mc.mode = .idle →
    (∀ e ∈ s.si.readings, e.2.quality.usable = false) ∧ (∀ e ∈ s.pe.pairs, e.2.state.level? = none)

/-- Every Pair Status record keeps its laws. -/
abbrev PairsSound (s : State) : Prop := ∀ e ∈ s.pe.pairs, pairSound e.2

/-- Outside START every Zone Status record is what a recompute gives (R110): between events a zone's level, blind flag,
counts and worst margin are those of its member pairs. -/
abbrev ZonesCurrent (s : State) : Prop :=
  s.mc.mode ≠ .start → s.zm.zones = s.tb.active.zone.mapRows s.zoneRecord

/-- The Alert Queue never holds two entries for the same zone, and each is of a zone that has an active row (R113). -/
abbrev AlertsSound (s : State) : Prop :=
  (s.zm.alerts.map fun a => a.zone).Nodup ∧
  ∀ a ∈ s.zm.alerts, (s.tb.active.zone.get a.zone).isSome = true

/-- The summary read sequence's counts keep their bounds, and nothing is held while it is closed (R121). -/
abbrev SummarySound (s : State) : Prop :=
  s.zm.summary.held ≤ Config.holdLimit ∧
  (s.zm.summary.isOpen = false → s.zm.summary.held = 0 ∧ s.zm.summary.nextRecord = 0) ∧
  (s.zm.summary.isOpen = true →
    s.zm.summary.broken = false ∧ s.zm.summary.nextRecord < s.zm.bank.records.length)

/-! ### Queues, phases and lines -/

/-- The tags the Relay Unit holds. -/
def RelayState.tags (ru : RelayState) : List Nat :=
  ru.queue.map (fun q => q.tag) ++ ru.inFlight.toList.map (fun q => q.tag) ++ ru.results.map (fun r => r.tag)

/-- The laws of R151: a tag is held at most once, the queue holds at most 8 requests, and the results with the relay in
flight are at most 8. -/
abbrev RelaySound (s : State) : Prop :=
  s.ru.tags.Nodup ∧ s.ru.queue.length ≤ Config.relayQueue ∧ s.ru.held ≤ Config.relayResults

/-- The exchange in progress is a RELAY exchange. -/
def State.relayExchange (s : State) : Bool :=
  match s.ti.exchange with
  | some x => decide (x.kind = .relay)
  | none => false

/-- The phases of R22: HALTED exactly in START and IDLE with the timer STOPPED, an exchange in progress exactly while
WALKING, the walk position known only then, the timer RUNNING in WAITING, STOPPING only while WALKING, and a relay in
flight exactly during a RELAY exchange (R151). -/
abbrev PhaseSound (s : State) : Prop :=
  (s.ps.phase = .halted ↔ (s.mc.mode = .start ∨ s.mc.mode = .idle)) ∧
  (s.ps.phase = .walking ↔ s.ti.exchange.isSome = true) ∧
  (s.ps.phase = .walking ↔ s.ps.position.isSome = true) ∧
  (s.ps.phase = .halted → s.ps.timer = .stopped) ∧
  (s.ps.phase = .waiting → s.ps.timer ≠ .stopped ∧ s.ps.timer ≠ .expired) ∧
  (s.ps.phase = .walking → s.ps.timer ≠ .stopped) ∧
  (s.mc.mode = .stopping → s.ps.phase = .walking) ∧
  (s.ru.inFlight.isSome = true ↔ s.relayExchange = true)

/-- A frame of the exchange in progress is being sent. -/
def State.trunkSending (s : State) : Bool :=
  match s.ti.exchange with
  | some x => decide (x.phase = .sending)
  | none => false

/-- The trunk direction controls are asserted together, and exactly while a poll or relay frame is sent by a part that is
live (R1, R192). -/
abbrev LinesSound (s : State) : Prop :=
  s.ti.dirA = s.ti.dirB ∧ s.ti.dirA = (s.live && s.trunkSending)

/-- The Uplink Interface is sound (R162, R165, R173, R176): a response is held exactly in RESPONDING, the direction control
is asserted only then, a frame is held only in SPACE, and the error count stays within 0..127. -/
abbrev UplinkSound (s : State) : Prop :=
  (s.ui.response.isSome = true ↔ s.ui.receiver = .responding) ∧
  (s.ui.dir = true → s.ui.receiver = .responding) ∧
  (s.ui.heldFrame.isSome = true → s.ui.receiver = .space) ∧
  s.ui.errors ≤ 127

/-! ### What a sample and a run of evaluations come to -/

/-- What a sample does to the reading of its channel (R45 to R47). -/
def sampleEffect (cycle : Half) (n : Notice) (row : ProbeRow) (r : Reading) (x : Sample) : Reading :=
  match x.status with
  | .ok => { quality := calibratedQuality row x.raw, value := some (calibratedValue row x.raw)
             fresh := row.freshCycles, stamp := some cycle, line := n.line, marked := n.marked }
  | .sensorFault => if r.quality = .none then r else { r with quality := .fault, fresh := 0 }
  | .warming => r

/-- A run of COMPUTED evaluations of a pair that stands at a level with both runs 0. -/
def riskRun (z : ZoneRow) (l : Level) (evaluations : List (Int × Option Int)) : Level × Nat × Nat :=
  evaluations.foldl (fun p e => riskStep z (.judged p.1) p.2.1 p.2.2 e.1 e.2) (l, 0, 0)

/-! ### Requests -/

/-- A request is heard: the part is live, its receiver takes frames, and the frame carries its address (R166, R167). -/
abbrev Heard (s : State) (address : Byte) : Prop :=
  s.live = true ∧ (s.ui.receiver = .ready ∨ s.ui.receiver = .receiving) ∧
    address.toNat = s.tb.active.general.uplinkAddress

/-- The command that carries a request under an address with a payload (R163, R168). -/
def Request.command (address : Byte) (payload : List Byte) : Request → Instr
  | .status => .status address payload
  | .counters => .counters address payload
  | .ident => .ident address payload
  | .mode => .mode address payload
  | .save => .save address payload
  | .restart => .restart address payload
  | .lineReport => .lineReport address payload
  | .skip => .skip address payload
  | .readReadings => .readReadings address payload
  | .forceSet => .forceSet address payload
  | .forceClear => .forceClear address payload
  | .forceList => .forceList address payload
  | .readPairs => .readPairs address payload
  | .summaryOpen => .summaryOpen address payload
  | .summaryNext => .summaryNext address payload
  | .summaryClose => .summaryClose address payload
  | .takeAlerts => .takeAlerts address payload
  | .loadOpen => .loadOpen address payload
  | .loadRows => .loadRows address payload
  | .loadClose => .loadClose address payload
  | .loadAbandon => .loadAbandon address payload
  | .commit => .commit address payload
  | .readTable => .readTable address payload
  | .relaySend => .relaySend address payload
  | .relayCollect => .relayCollect address payload

/-- The state after a request whose owner has left the part as `t`: the response is fixed and the receiver RESPONDING (R168). -/
def answeredWith (address code : Byte) (status : Status) (payload : List Byte) (t : State) : State :=
  respond address code { status := status, payload := payload, state := t }

end Sys2Proof.Machine
end

