-- ==== Sys2Proof/WellFormed.lean ====
section
/-! DEFINITION. The commands whose operands are what their rows say: a frame that can be received, a check that does fail,
a code that is unknown. The meanings are total and do not ask for it. -/

namespace Sys2Proof

open Machine

/-- What a line shows holds a frame that has ended (R7), whichever node is polled. -/
def frameEnds (shown : List LineSamples) : Bool :=
  match gradeLine 0 false (shown.map receivedActivity) with
  | .ended _ => true
  | .unfinished => false
  | .notStarted => false

/-- A payload whose length byte is not above 240 (R163, R166). -/
def payloadFits (payload : List Byte) : Bool := decide (payload.length ≤ 240)

/-- The part of a frame that a break character interrupts: fewer bytes than a whole frame of 240 payload bytes (R176). -/
def partialFits (received : List Byte) : Bool := decide (received.length ≤ 244)

/-- The bytes of a memory of the size of the longest image (R200). How many bytes the memory has is not said: that a command's
bytes are no more than these is a DESIGN CHOICE, safe, since its meaning takes any number (notes/assumptions/8.md). -/
def memoryFits (bytes : List Byte) : Bool := decide (bytes.length ≤ 3253)

/-- The command is what its row says. -/
def Instr.wellFormed : Instr → Bool
  | .powerOn => true
  | .resetAssert => true
  | .resetRelease => true
  | .startUpEnd => true
  | .restartTaken => true
  | .saveWriteEnd .intact => true
  | .saveWriteEnd (.corrupt bytes) => memoryFits bytes
  | .cycleTimerExpiry => true
  | .trunkFrameSend => true
  | .trunkFrameEnd => true
  | .lineFrameEnds _ shown => frameEnds shown
  | .lineFrameGap _ => true
  | .replyTimeout _ _ => true
  | .loadTimeout => true
  | .uplinkIdleSeen => true
  | .otherStationDone => true
  | .uplinkFrameGap => true
  | .uplinkFrameDefect _ => true
  | .uplinkCheckFail address code payload check =>
    payloadFits payload && decide (check ≠ check16 (requestBody address code payload))
  | .frameForOtherStation _ _ payload => payloadFits payload
  | .unknownRequestCode _ code payload => payloadFits payload && (Request.ofCode code).isNone
  | .responseSend => true
  | .responseSent => true
  | .breakCharacter received => partialFits received
  | .spaceEndsEarly => true
  | .lineBreak => true
  | .breakEnd => true
  | .status _ payload => payloadFits payload
  | .counters _ payload => payloadFits payload
  | .ident _ payload => payloadFits payload
  | .mode _ payload => payloadFits payload
  | .save _ payload => payloadFits payload
  | .restart _ payload => payloadFits payload
  | .lineReport _ payload => payloadFits payload
  | .skip _ payload => payloadFits payload
  | .readReadings _ payload => payloadFits payload
  | .forceSet _ payload => payloadFits payload
  | .forceClear _ payload => payloadFits payload
  | .forceList _ payload => payloadFits payload
  | .readPairs _ payload => payloadFits payload
  | .summaryOpen _ payload => payloadFits payload
  | .summaryNext _ payload => payloadFits payload
  | .summaryClose _ payload => payloadFits payload
  | .takeAlerts _ payload => payloadFits payload
  | .loadOpen _ payload => payloadFits payload
  | .loadRows _ payload => payloadFits payload
  | .loadClose _ payload => payloadFits payload
  | .loadAbandon _ payload => payloadFits payload
  | .commit _ payload => payloadFits payload
  | .readTable _ payload => payloadFits payload
  | .relaySend _ payload => payloadFits payload
  | .relayCollect _ payload => payloadFits payload
  | .powerLoss => true

end Sys2Proof
end

