-- ==== Sys2Proof/Certificates/Slice0/Obligations.lean ====
section
/-! DEFINITION. The statements for the provers. Rules are cited as R<n>; a clause that rests on a choice of the model names
its row of notes/assumptions. -/

open Sys2Proof Sys2Proof.Machine

/-! ### The machine and its reset -/

/-- A step runs the command at the front of the queue with the queue's rest; an empty queue idles. Both are the model's
choice (notes/assumptions/3.md). -/
def Obligations.StepRunsTheFrontCommand : Prop :=
  (∀ (c : Instr) (rest : List Instr) (s : State),
    s.pending = c :: rest → step s = exec c { s with pending := rest }) ∧
  (∀ s : State, s.pending = [] → step s = .next s)

/-- Every command, with every operand and in every state, answers a next state and leaves the queue as it was. That a
command that cannot arise in a state still completes, changing nothing, is the model's choice (notes/assumptions/2.md). -/
def Obligations.EveryCommandCompletes : Prop :=
  ∀ (c : Instr) (s : State), ∃ t, exec c s = .next t ∧ t.pending = s.pending

/-- The values that R21, R37, R57, R67, R107, R127, R150, R161, R178 and R186 give after power-on, and those of R187 for a
memory never written (that the memory is so is the model's choice, notes/assumptions/4.md). -/
def Obligations.ResetValues : Prop :=
  State.reset.mc.mode = .start ∧ State.reset.mc.reason = .power ∧ State.reset.mc.restartPending = false ∧
  State.reset.ti.nodes = [] ∧ State.reset.ti.exchange = none ∧ State.reset.ti.receiversOn = false ∧
  State.reset.ti.dirA = false ∧ State.reset.ti.dirB = false ∧ State.reset.ui.dir = false ∧
  State.reset.ps = { phase := .halted, cycle := 0, timer := .stopped, position := none, overruns := 0 } ∧
  State.reset.si.readings = [] ∧ State.reset.si.forces = [] ∧ State.reset.pe.pairs = [] ∧
  State.reset.zm.zones = [] ∧ State.reset.zm.alerts = [] ∧
  State.reset.zm.bank = { publicationCycle := none, records := [] } ∧
  State.reset.zm.summary = { isOpen := false, nextRecord := 0, held := 0, broken := false } ∧
  (∀ t : TableId, State.reset.tb.staged.copy t = .none) ∧ State.reset.tb.load = none ∧
  State.reset.tb.pendingCommit = none ∧ State.reset.tb.active = Tables.empty ∧
  State.reset.ru.queue = [] ∧ State.reset.ru.inFlight = none ∧ State.reset.ru.results = [] ∧
  State.reset.ui.receiver = .off ∧ State.reset.ui.errors = 0 ∧ State.reset.ui.overflow = false ∧
  State.reset.cs.image = .never ∧ State.reset.cs.state = .empty ∧ State.reset.cs.saveCount = 0 ∧
  State.reset.cs.saveWrite = none

/-- The state after reset satisfies every invariant stated below. -/
def Obligations.ResetIsSound : Prop :=
  TablesSound State.reset ∧ WorkExclusive State.reset ∧ PhaseSound State.reset ∧ LinesSound State.reset ∧
  UplinkSound State.reset ∧ RecordsFollowTables State.reset ∧ IntakeSound State.reset ∧ PairsSound State.reset ∧
  JudgedPairsUsable State.reset ∧ ZonesCurrent State.reset ∧ AlertsSound State.reset ∧ SummarySound State.reset ∧
  RelaySound State.reset ∧ IdleWatchesNothing State.reset

/-! ### Invariants that every step keeps -/

/-- The active tables and a pending candidate set always pass the row checks and the cross checks, and every staged or
working row is well formed (R131, R141 to R143, R187). -/
def Obligations.TablesStaySound : Prop :=
  ∀ s t : State, TablesSound s → step s = .next t → TablesSound t

/-- What is in progress together stays as R129, R132, R140, R142, R143, R165, R183 and R185 have it: a pending commit excludes
a load sequence, a SAVE, START and IDLE, and START has the uplink receiver OFF; a load sequence and a SAVE may be in progress
together (R184). That the memory holds an incomplete image while a SAVE is in progress is the model's choice
(notes/assumptions/7.md). -/
def Obligations.WorkStaysExclusive : Prop :=
  ∀ s t : State, WorkExclusive s → step s = .next t → WorkExclusive t

/-- The phases of the Poll Scheduler stay tied to the mode, the timer, the walk position and the exchange (R22, R24, R151). -/
def Obligations.PhasesStaySound : Prop :=
  ∀ s t : State, PhaseSound s → step s = .next t → PhaseSound t

/-- The trunk direction controls are asserted together, exactly while a frame is sent by a live part (R1, R192). That a part
without its supply has released them is the model's choice (notes/assumptions/10.md). -/
def Obligations.LinesStaySound : Prop :=
  ∀ s t : State, PhaseSound s → LinesSound s → step s = .next t → LinesSound t

/-- A response is held exactly in RESPONDING, the direction control is asserted only there, a frame is held only in SPACE,
and the error count stays within 0..127 (R162, R165, R173, R176). A response that is held keeps its content until
RESPONSE_SENT, and the direction control stays asserted until then, whatever other event comes, a restart among them; only the
commands of power and of the reset input end them otherwise (R162, R170, R185, R192). That a response is held until
RESPONSE_SENT and dropped then is the model's choice (notes/assumptions/13.md), that a restart waits for it is DEDUCED
(notes/assumptions/9.md), and what POWER_LOSS and RESET_ASSERT leave is a choice too (notes/assumptions/10.md). -/
def Obligations.UplinkStaysSound : Prop :=
  (∀ s t : State, WorkExclusive s → UplinkSound s → step s = .next t → UplinkSound t) ∧
  (∀ (c : Instr) (s t : State) (r : Response), WorkExclusive s → UplinkSound s → exec c s = .next t →
    s.ui.response = some r →
    (c ∉ [Instr.responseSent, .powerOn, .resetRelease] → t.ui.response = some r) ∧
    (s.ui.dir = true → c ∉ [Instr.responseSent, .powerOn, .resetRelease, .resetAssert, .powerLoss] → t.ui.dir = true))

/-- Outside START there is a record for each row or node that has one, and no other (R17, R39, R85, R109). -/
def Obligations.RecordsFollowTheTables : Prop :=
  ∀ s t : State, TablesSound s → RecordsFollowTables s → step s = .next t → RecordsFollowTables t

/-- Readings and force entries keep the laws of R39, R40 and R58. -/
def Obligations.IntakeStaysSound : Prop :=
  ∀ s t : State, TablesSound s → IntakeSound s → step s = .next t → IntakeSound t

/-- Pair Status records keep the laws of R85, R87 and R99. -/
def Obligations.PairsStaySound : Prop :=
  ∀ s t : State, TablesSound s → PairsSound s → step s = .next t → PairsSound t

/-- A pair that is not UNKNOWN has all three of its input readings usable (R86), at every moment between two steps. -/
def Obligations.JudgedPairsStayUsable : Prop :=
  ∀ s t : State, TablesSound s → RecordsFollowTables s → PhaseSound s → JudgedPairsUsable s → step s = .next t →
    JudgedPairsUsable t

/-- Between events every Zone Status record is what a recompute gives (R110). -/
def Obligations.ZonesStayCurrent : Prop :=
  ∀ s t : State, TablesSound s → ZonesCurrent s → step s = .next t → ZonesCurrent t

/-- The Alert Queue never holds two entries for a zone, nor one for a zone without a row (R113, R116). -/
def Obligations.AlertsStaySound : Prop :=
  ∀ s t : State, AlertsSound s → step s = .next t → AlertsSound t

/-- The summary read sequence keeps its bounds (R119, R121), and the published bank does not change while a sequence stays
open (R119). -/
def Obligations.SummaryStaysSound : Prop :=
  ∀ s t : State, SummarySound s → step s = .next t →
    SummarySound t ∧
    (s.zm.summary.isOpen = true → t.zm.summary.isOpen = true → t.zm.bank = s.zm.bank)

/-- A relay tag is held at most once, and the queue and the results with the relay in flight never hold more than 8 (R151). -/
def Obligations.RelayStaysSound : Prop :=
  ∀ s t : State, RelaySound s → step s = .next t → RelaySound t

/-- Throughout IDLE no reading is usable and every pair is UNKNOWN (R54, R92, R103). -/
def Obligations.IdleStaysUnwatched : Prop :=
  ∀ s t : State, TablesSound s → RecordsFollowTables s → PhaseSound s → IdleWatchesNothing s → step s = .next t →
    IdleWatchesNothing t

/-! ### Bytes -/

/-- The rows of the five tables: the ranges within which a row is well formed (R38, R84, R130, R131), the row bytes of each
(R197), and exactly which row bytes are accepted, and as which row: those that a well-formed row has, and no others (R135); so
a POLL row kind other than POLL and RELAY is refused, and a flag byte above 1. That the unused bytes of a RELAY row may be any
is DEDUCED (notes/assumptions/15.md). -/
def Obligations.RowsRoundTrip : Prop :=
  (let two : Int → List Byte := fun i => [byte (i % 65536 / 256).toNat, byte (i % 256).toNat]
    let kind : ProbeKind → Byte := fun k =>
      match k with
      | .airTemp => 0
      | .airRh => 1
      | .surfaceTemp => 2
    (∀ node timeout accept, (PollRow.poll node timeout accept).bytes =
      [1, byte node, byte (timeout / 10), if accept then 1 else 0]) ∧
    PollRow.relay.bytes = [2, 0, 0, 0] ∧
    (∀ r : ProbeRow, r.bytes = [byte r.node, byte r.slot, kind r.kind] ++ two r.rawLo ++ two r.rawHi ++ two r.refLo
      ++ two r.refHi ++ [byte r.freshCycles]) ∧
    (∀ r : PairRow, r.bytes = [byte r.airT, byte r.airRh, byte r.surface, byte r.zone, byte r.skewLimit]) ∧
    (∀ r : ZoneRow, r.bytes = two r.watchAt ++ two r.nearAt ++ two r.wetAt
      ++ [byte r.hyst, byte r.riseCount, byte r.fallCount, byte r.lookahead, byte r.blindLimit]) ∧
    (∀ r : GeneralRow, r.bytes = byte r.uplinkAddress :: two (r.cyclePeriod / 100 : Nat) ++
      [if r.autoSurvey then 1 else 0, byte r.quarantineAfter, byte r.quarantineInterval, byte r.lineSwitchAfter])) ∧
  ((∀ node timeout accept, (PollRow.poll node timeout accept).wellFormed = true ↔
      1 ≤ node ∧ node ≤ 126 ∧ 10 ≤ timeout ∧ timeout ≤ 250 ∧ timeout % 10 = 0) ∧
    PollRow.relay.wellFormed = true ∧
    (∀ r : ProbeRow, r.wellFormed = true ↔
      1 ≤ r.node ∧ r.node ≤ 126 ∧ r.slot ≤ 3 ∧ r.rawLo ≤ 65535 ∧ r.rawHi ≤ 65535 ∧ r.rawLo ≠ r.rawHi ∧
      (∀ ref ∈ [r.refLo, r.refHi],
        if r.kind = .airRh then 0 ≤ ref ∧ ref ≤ 10000 else -4000 ≤ ref ∧ ref ≤ 6000) ∧
      1 ≤ r.freshCycles ∧ r.freshCycles ≤ 255) ∧
    (∀ r : PairRow, r.wellFormed = true ↔
      r.airT ≤ 127 ∧ r.airRh ≤ 127 ∧ r.surface ≤ 127 ∧ r.zone ≤ 31 ∧ r.skewLimit ≤ 7) ∧
    (∀ r : ZoneRow, r.wellFormed = true ↔
      (∀ at' ∈ [r.watchAt, r.nearAt, r.wetAt], -2000 ≤ at' ∧ at' ≤ 2000) ∧ r.wetAt < r.nearAt ∧ r.nearAt < r.watchAt ∧
      r.hyst ≤ 200 ∧ 1 ≤ r.riseCount ∧ r.riseCount ≤ 15 ∧ 1 ≤ r.fallCount ∧ r.fallCount ≤ 15 ∧ r.lookahead ≤ 32 ∧
      r.blindLimit ≤ 63) ∧
    (∀ r : GeneralRow, r.wellFormed = true ↔
      1 ≤ r.uplinkAddress ∧ r.uplinkAddress ≤ 247 ∧ 500 ≤ r.cyclePeriod ∧ r.cyclePeriod ≤ 60000 ∧
      r.cyclePeriod % 100 = 0 ∧ 2 ≤ r.quarantineAfter ∧ r.quarantineAfter ≤ 15 ∧ 2 ≤ r.quarantineInterval ∧
      r.quarantineInterval ≤ 64 ∧ 1 ≤ r.lineSwitchAfter ∧ r.lineSwitchAfter ≤ 15)) ∧
  (∀ bs r, PollRow.ofBytes bs = some r ↔
    r.wellFormed = true ∧ (bs = r.bytes ∨ (r = .relay ∧ ∃ x y z, bs = [2, x, y, z]))) ∧
  (∀ bs r, ProbeRow.ofBytes bs = some r ↔ r.wellFormed = true ∧ bs = r.bytes) ∧
  (∀ bs r, PairRow.ofBytes bs = some r ↔ r.wellFormed = true ∧ bs = r.bytes) ∧
  (∀ bs r, ZoneRow.ofBytes bs = some r ↔ r.wellFormed = true ∧ bs = r.bytes) ∧
  (∀ bs r, GeneralRow.ofBytes bs = some r ↔ r.wellFormed = true ∧ bs = r.bytes) ∧
  (∀ kind x y z, kind ≠ 1 → kind ≠ 2 → PollRow.ofBytes [kind, x, y, z] = none) ∧
  (∀ x y z, PollRow.ofBytes [2, x, y, z] = some .relay) ∧
  (∀ node timeout accept : Byte, 1 < accept.toNat → PollRow.ofBytes [1, node, timeout, accept] = none) ∧
  (∀ node slot kind b3 b4 b5 b6 b7 b8 b9 b10 fresh : Byte, 2 < kind.toNat →
    ProbeRow.ofBytes [node, slot, kind, b3, b4, b5, b6, b7, b8, b9, b10, fresh] = none) ∧
  (∀ address p1 p0 auto after interval switch : Byte, 1 < auto.toNat →
    GeneralRow.ofBytes [address, p1, p0, auto, after, interval, switch] = none)

/-- An entry is an op byte, an index byte and the table's row bytes: 6 bytes for POLL, 14 for PROBE, 7 for PAIR, 13 for ZONE
and 9 for GENERAL (R197). A LOAD_ROWS payload is taken exactly when it divides into 1 to 16 whole entries of the table's
layout, and then as those entries in the order carried (R135). -/
def Obligations.LoadEntriesCut : Prop :=
  [TableId.poll, .probe, .pair, .zone, .general].map (fun t => t.rowSize + 2) = [6, 14, 7, 13, 9] ∧
  ∀ (t : TableId) (payload : List Byte) (es : List (List Byte)),
    loadEntries t payload = some es ↔
      1 ≤ es.length ∧ es.length ≤ 16 ∧ (∀ e ∈ es, e.length = t.rowSize + 2) ∧ es.flatten = payload

/-- The image (R182, R200): its bytes, header, rows and check, and its length; that the image of well-formed tables is judged
whole and gives back its save count and tables, and that tables read from any image are well formed; and what the judging
decides: the bytes are not whole exactly when the header's format, length or a row count is wrong, or the check, or an entry,
whose op byte is not PUT, whose index does not ascend or lies outside its table, or whose row is not well formed; and a whole
image gives the save count and the rows that stand in it. That bytes behind the image's length are disregarded, and that a
save count of 0 is not looked at, is the model's choice (notes/assumptions/22.md). -/
def Obligations.ImageRoundTrip : Prop :=
  (∀ (t : Tables) (n : Nat), t.sound → 1 ≤ n → n ≤ 65535 → judge (storeImage n t) = some (n, t)) ∧
  (∀ (bs : List Byte) (n : Nat) (t : Tables), judge bs = some (n, t) → t.sound) ∧
  (∀ (t : Tables) (n : Nat),
    let two : Nat → List Byte := fun i => [byte (i / 256), byte (i % 256)]
    let length := 21 + 6 * t.poll.length + 14 * t.probe.length + 7 * t.pair.length + 13 * t.zone.length
    let covered : List Byte :=
      [1] ++ two length ++ two n ++ [1, byte t.poll.length, byte t.probe.length, byte t.pair.length, byte t.zone.length]
        ++ ([1, 0] ++ t.general.bytes) ++ t.poll.flatMap (fun e => [1, byte e.1] ++ e.2.bytes)
        ++ t.probe.flatMap (fun e => [1, byte e.1] ++ e.2.bytes) ++ t.pair.flatMap (fun e => [1, byte e.1] ++ e.2.bytes)
        ++ t.zone.flatMap (fun e => [1, byte e.1] ++ e.2.bytes)
    storeImage n t = covered ++ two (check16 covered).toNat ∧ (storeImage n t).length = length ∧
    (t.sound → length ≤ 3253)) ∧
  (∀ bs : List Byte,
    let at' : Nat → Nat := fun i => (bs.getD i 0).toNat
    let span : Nat → Nat → List Byte := fun i n => (bs.drop i).take n
    let length := 256 * at' 1 + at' 2
    let probes := 19 + 6 * at' 6
    let pairs := probes + 14 * at' 7
    let zones := pairs + 7 * at' 8
    let headerFails : Prop := bs.length < 10 ∨ at' 0 ≠ 1 ∨ length < 21 ∨ 3253 < length ∨ bs.length < length ∨
      at' 5 ≠ 1 ∨ 96 < at' 6 ∨ 128 < at' 7 ∨ 64 < at' 8 ∨ 32 < at' 9 ∨ length ≠ zones + 13 * at' 9 + 2
    let checkFails : Prop := 256 * at' (length - 2) + at' (length - 1) ≠ (check16 (span 0 (length - 2))).toNat
    let entryFails : Nat → Nat → Nat → Nat → (List Byte → Bool) → Prop := fun start size count capacity rowFits =>
      ∃ i < count,
        let place := start + i * (size + 2)
        at' place ≠ 1 ∨ capacity ≤ at' (place + 1) ∨ (0 < i ∧ at' (place + 1) ≤ at' (place + 1 - (size + 2))) ∨
          rowFits (span (place + 2) size) = false
    (judge bs = none ↔ headerFails ∨ checkFails ∨
      entryFails 10 7 1 1 (fun b => (GeneralRow.ofBytes b).isSome) ∨
      entryFails 19 4 (at' 6) 96 (fun b => (PollRow.ofBytes b).isSome) ∨
      entryFails probes 12 (at' 7) 128 (fun b => (ProbeRow.ofBytes b).isSome) ∨
      entryFails pairs 5 (at' 8) 64 (fun b => (PairRow.ofBytes b).isSome) ∨
      entryFails zones 11 (at' 9) 32 (fun b => (ZoneRow.ofBytes b).isSome)) ∧
    (∀ n t, judge bs = some (n, t) →
      n = 256 * at' 3 + at' 4 ∧ GeneralRow.ofBytes (span 12 7) = some t.general ∧
      t.poll.length = at' 6 ∧ t.probe.length = at' 7 ∧ t.pair.length = at' 8 ∧ t.zone.length = at' 9 ∧
      (∀ i k r, t.poll[i]? = some (k, r) → k = at' (20 + i * 6) ∧ PollRow.ofBytes (span (21 + i * 6) 4) = some r) ∧
      (∀ i k r, t.probe[i]? = some (k, r) →
        k = at' (probes + 1 + i * 14) ∧ ProbeRow.ofBytes (span (probes + 2 + i * 14) 12) = some r) ∧
      (∀ i k r, t.pair[i]? = some (k, r) →
        k = at' (pairs + 1 + i * 7) ∧ PairRow.ofBytes (span (pairs + 2 + i * 7) 5) = some r) ∧
      (∀ i k r, t.zone[i]? = some (k, r) →
        k = at' (zones + 1 + i * 13) ∧ ZoneRow.ofBytes (span (zones + 2 + i * 13) 11) = some r)))

/-- The search for a frame on a line and its grading (R3, R6, R7, R9, R195). Activity that starts no frame is passed over and
noted, a 5Ah after less than 3 byte-times of idle among it. A reply frame of the node polled is then GOOD; MARKED when a byte
of it is doubtful; CHECK when a later byte than the delimiter has a framing error or the check bytes differ; STRAY to an
exchange with another node; LENGTH when more than 2 byte-times part two of its bytes, when its kind is undefined, when its
length is not the kind's, and for a FAULT code of 0; and not ended while a byte is missing. A receiver samples every bit
twice (R6): the value is that of the later samples of the data bits, the byte is doubtful when the samples of any bit
disagree, and has a framing error when its stop bit is sampled as space; what a node drives is received as sent. The frame of
a node is the model's function outside State (notes/assumptions/21.md); the levels of the bits, and that the later sample of
the stop bit decides, are PRESUMED and DEDUCED (notes/assumptions/24.md). -/
def Obligations.ReplyFramesGrade : Prop :=
  (∀ x : ByteSamples,
    (∀ k < 8, (receivedByte x).value.getLsbD k = x.late.getLsbD (k + 1)) ∧
    ((receivedByte x).doubtful = true ↔ ∃ k < 10, x.early.getLsbD k ≠ x.late.getLsbD k) ∧
    ((receivedByte x).framing = true ↔ x.late.getLsbD 9 = false)) ∧
  (∀ x : LineSamples, receivedActivity x = { idle := x.idle, byte := x.byte.map receivedByte }) ∧
  (∀ bs : List Byte, (driven bs).map receivedActivity = cleanly bs) ∧
  (∀ (node : Nat) (seen : Bool) (x : LineActivity) (rest : List LineActivity),
    (∀ b ∈ x.byte, b.value ≠ 0x5A#8 ∨ b.framing = true ∨ (seen = true ∧ x.idle ≠ .long)) →
      gradeLine node seen (x :: rest) = gradeLine node true rest) ∧
  (∀ node seen, gradeLine node seen [] = .notStarted) ∧
  (∀ (node : Nat) (r : Reply) (seen : Bool), 1 ≤ node → node ≤ 126 → r.sendable = true →
    let frame := cleanly (replyFrame node r)
    gradeLine node seen frame = .ended (.good r) ∧
    (∀ noise, gradeLine node seen noise = .notStarted → gradeLine node seen (noise ++ frame) = .ended (.good r)) ∧
    (∀ k, k < frame.length →
      gradeLine node seen (frame.modify k fun x => { x with byte := x.byte.map fun b => { b with doubtful := true } }) =
        .ended (.marked r)) ∧
    (∀ k, 1 ≤ k → k < frame.length →
      gradeLine node seen (frame.modify k fun x => { x with byte := x.byte.map fun b => { b with framing := true } }) =
        .ended .check) ∧
    (∀ c1 c0 : Byte, [c1, c0] ≠ wordBytes (check16 (replyBody node r)) →
      gradeLine node seen (cleanly (0x5A#8 :: (replyBody node r ++ [c1, c0]))) = .ended .check) ∧
    (∀ other, other ≠ node → gradeLine other seen frame = .ended .stray) ∧
    (∀ k idle, 1 ≤ k → k < frame.length → idle ≠ Idle.short →
      gradeLine node seen (frame.modify k fun x => { x with idle := idle }) = .ended .length) ∧
    (∀ k, 1 ≤ k → k < frame.length → gradeLine node seen (frame.take k) = .unfinished)) ∧
  (∀ (node : Nat) (seen : Bool) (n c l : Byte) (rest : List Byte),
    let kind := c.toNat % 16
    kind = 0 ∨ 5 ≤ kind ∨ (kind = 1 ∧ l.toNat ∉ [4, 8, 12, 16]) ∨ (kind = 2 ∧ l.toNat ≠ 0) ∨ (kind = 3 ∧ l.toNat ≠ 1) ∨
      (kind = 4 ∧ 32 < l.toNat) ∨ (kind = 3 ∧ l.toNat = 1 ∧ ∃ k1 k0 after, rest = 0 :: k1 :: k0 :: after) →
    gradeLine node seen (cleanly (0x5A#8 :: n :: c :: l :: rest)) = .ended .length)

/-! ### Rules over all commands -/

/-- The mode changes only as the table of R179 has it, and only by the commands the table names: power-on, the release of the
reset input and a restart taken enter START, the end of start-up leaves it, an accepted MODE(SURVEY) or MODE(IDLE) moves
between IDLE, SURVEY and STOPPING, and the stop of a trunk event's cycle completion ends STOPPING (R32, R33). That MODE(IDLE)
in WAITING, which passes through STOPPING, reaches IDLE in its own step is DEDUCED (notes/assumptions/19.md); that a frame with
MODE's code is a MODE under whatever row it comes is the model's choice (notes/assumptions/14.md). -/
def Obligations.ModesChangeAsTabled : Prop :=
  (∀ s t : State, step s = .next t →
    t.mc.mode = s.mc.mode ∨ t.mc.mode = .start ∨
    (s.mc.mode, t.mc.mode) ∈ [(Mode.start, Mode.idle), (.start, .survey), (.idle, .survey), (.survey, .stopping),
      (.stopping, .survey), (.stopping, .idle)] ∨
    (s.mc.mode = .survey ∧ t.mc.mode = .idle ∧ s.ps.phase = .waiting)) ∧
  (∀ (c : Instr) (s t : State), PhaseSound s → exec c s = .next t →
    let asks : Byte → Prop := fun target => ∃ a check, c ∈ [Instr.mode a [target], .frameForOtherStation a 0x04 [target],
      .unknownRequestCode a 0x04 [target], .uplinkCheckFail a 0x04 [target] check]
    let completes : Prop := (∃ l shown, c = .lineFrameEnds l shown) ∨ (∃ l, c = .lineFrameGap l) ∨
      (∃ sightA sightB, c = .replyTimeout sightA sightB)
    t.mc.mode = s.mc.mode ∨
    (t.mc.mode = .start ∧ c ∈ [Instr.powerOn, .resetRelease, .restartTaken]) ∨
    (s.mc.mode = .start ∧ (t.mc.mode = .idle ∨ t.mc.mode = .survey) ∧ c = .startUpEnd) ∨
    (s.mc.mode = .idle ∧ t.mc.mode = .survey ∧ asks 2) ∨
    (s.mc.mode = .survey ∧ t.mc.mode = .stopping ∧ asks 1) ∨
    (s.mc.mode = .stopping ∧ t.mc.mode = .survey ∧ asks 2) ∨
    (s.mc.mode = .stopping ∧ t.mc.mode = .idle ∧ completes) ∨
    (s.mc.mode = .survey ∧ t.mc.mode = .idle ∧ s.ps.phase = .waiting ∧ asks 1))

/-- The cycle number advances by one exactly when a command brings a cycle start, which restarts the timer for the period
then active (R23 to R25): the entry to SURVEY from START or IDLE, the expiry of the timer in WAITING, and a completion in
SURVEY that finds the timer EXPIRED. Otherwise it keeps its value, but that an entry to START sets it to 0 (R37); so it
rests throughout IDLE. That the cycle start after a MODE comes in its step is DEDUCED (notes/assumptions/19.md), and frames
under the wrong command are the model's choice (notes/assumptions/14.md). -/
def Obligations.CycleNumberAdvances : Prop :=
  (∀ s t : State, PhaseSound s → step s = .next t →
    (t.ps.cycle = s.ps.cycle ∨ t.ps.cycle = s.ps.cycle + 1 ∨ (t.mc.mode = .start ∧ t.ps.cycle = 0)) ∧
    (s.mc.mode = .idle → t.mc.mode = .idle → t.ps.cycle = s.ps.cycle)) ∧
  (∀ (c : Instr) (s t : State), PhaseSound s → exec c s = .next t →
    let started : Prop :=
      (c = .startUpEnd ∧ s.mc.mode = .start ∧ t.mc.mode = .survey) ∨
      ((∃ a check, c ∈ [Instr.mode a [2], .frameForOtherStation a 0x04 [2], .unknownRequestCode a 0x04 [2],
          .uplinkCheckFail a 0x04 [2] check]) ∧ s.mc.mode = .idle ∧ t.mc.mode = .survey) ∨
      (c = .cycleTimerExpiry ∧ s.live = true ∧ s.ps.phase = .waiting) ∨
      (((∃ l shown, c = .lineFrameEnds l shown) ∨ (∃ l, c = .lineFrameGap l) ∨
          (∃ sightA sightB, c = .replyTimeout sightA sightB)) ∧
        s.mc.mode = .survey ∧ s.ps.timer = .expired ∧ t.ps.timer ≠ .expired)
    (started → t.ps.cycle = s.ps.cycle + 1 ∧ t.ps.timer = .running t.tb.active.general.cyclePeriod) ∧
    (¬ started → t.ps.cycle = s.ps.cycle ∨
      (t.mc.mode = .start ∧ t.ps.cycle = 0 ∧ c ∈ [Instr.powerOn, .resetRelease, .restartTaken])))

/-- Only SAVE (under the code of its frame), the end of its write, and the commands of power, reset and restart change the
Configuration Store: a line break, a commit, the stop and changes of mode leave it as it was (R181). That a frame with the
code of SAVE is a SAVE under whatever row it comes, FRAME_FOR_OTHER_STATION, UNKNOWN_REQUEST_CODE and UPLINK_CHECK_FAIL
among them, is the model's choice (notes/assumptions/14.md). -/
def Obligations.StoreKeptByOtherCommands : Prop :=
  ∀ (c : Instr) (s t : State), exec c s = .next t → t.cs ≠ s.cs →
    c ∈ [Instr.powerOn, .resetAssert, .resetRelease, .restartTaken, .powerLoss] ∨
    (∃ result, c = .saveWriteEnd result) ∨
    (∃ a p, c = .save a p ∨ c = .frameForOtherStation a 0x05 p ∨ c = .unknownRequestCode a 0x05 p) ∨
    (∃ a p k, c = .uplinkCheckFail a 0x05 p k)

/-- The cycle timer and the trunk's events leave the supply, the uplink, the store, the load sequence and the start reason as
they were (R139, R168, R181). -/
def Obligations.TrunkLeavesTheUplink : Prop :=
  ∀ (c : Instr) (s t : State),
    (c = .cycleTimerExpiry ∨ c = .trunkFrameSend ∨ c = .trunkFrameEnd ∨ (∃ l shown, c = .lineFrameEnds l shown) ∨
      (∃ l, c = .lineFrameGap l) ∨ (∃ a b, c = .replyTimeout a b)) →
    exec c s = .next t →
    t.supply = s.supply ∧ t.ui = s.ui ∧ t.cs = s.cs ∧ t.tb.load = s.tb.load ∧ t.mc.reason = s.mc.reason ∧
    t.mc.restartPending = s.mc.restartPending

/-- The taking of a commit (R15, R18, R55, R66, R104, R116, R145 to R148): the candidate set becomes the active tables, each
collection of records is brought into line with it row by row, and everything R148 names is left as it was. In the Alert
Queue the entries of deleted zones go and those of kept zones stay in their places; a kept zone whose level or blind flag
the commit moves has its entry updated there, or one appended, in ascending zone number; an added zone gets none (R116). -/
def Obligations.CommitRebuilds : Prop :=
  ∀ (s : State) (c : Tables), c.installable →
    let t := takeCommit c s
    let old := s.tb.active
    let moved : Nat → Option (ZoneRecord × ZoneRecord) := fun z =>
      match s.zm.zones.get z, t.zm.zones.get z with
      | some before, some after =>
        if before.level = after.level ∧ before.blind = after.blind then none else some (before, after)
      | _, _ => none
    t.tb = { s.tb with active := c, staged := {}, pendingCommit := none } ∧
    t.supply = s.supply ∧ t.ps = s.ps ∧ t.ru = s.ru ∧ t.ui = s.ui ∧ t.mc = s.mc ∧ t.cs = s.cs ∧
    t.zm.bank = s.zm.bank ∧ t.zm.summary = s.zm.summary ∧ t.ti.exchange = s.ti.exchange ∧
    (∀ n, n ∉ pollNodes c.poll → t.ti.nodes.get n = none) ∧
    (∀ n r, n ∈ pollNodes c.poll → s.ti.nodes.get n = some r → t.ti.nodes.get n =
      some (if old.general.quarantineAfter ≠ c.general.quarantineAfter ∧ r.quarantined = true
        then { r with failRun := c.general.quarantineAfter } else r)) ∧
    (∀ n, n ∈ pollNodes c.poll → s.ti.nodes.get n = none → t.ti.nodes.get n = some {}) ∧
    (∀ k, c.probe.get k = none → t.si.readings.get k = none) ∧
    (∀ k row, c.probe.get k = some row → old.probe.get k ≠ some row → t.si.readings.get k = some {}) ∧
    (∀ k row r, c.probe.get k = some row → old.probe.get k = some row → s.si.readings.get k = some r →
      t.si.readings.get k = some r) ∧
    (∀ k a b, old.probe.get k = some a → c.probe.get k = some b → a.kind = b.kind →
      t.si.forces.get k = s.si.forces.get k) ∧
    (∀ k, (∀ a b, old.probe.get k = some a → c.probe.get k = some b → a.kind ≠ b.kind) → t.si.forces.get k = none) ∧
    (∀ p, c.pair.get p = none → t.pe.pairs.get p = none) ∧
    (∀ p row, c.pair.get p = some row →
      (old.pair.get p ≠ some row ∨ (∃ k ∈ [row.airT, row.airRh, row.surface], old.probe.get k ≠ c.probe.get k) ∨
        old.zone.get row.zone ≠ c.zone.get row.zone) → t.pe.pairs.get p = some {}) ∧
    (∀ p row r, c.pair.get p = some row → old.pair.get p = some row →
      (∀ k ∈ [row.airT, row.airRh, row.surface], old.probe.get k = c.probe.get k) →
      old.zone.get row.zone = c.zone.get row.zone → s.pe.pairs.get p = some r → t.pe.pairs.get p = some r) ∧
    (∀ z, t.zm.zones.get z = (c.zone.get z).map (t.zoneRecord z)) ∧
    (∀ a ∈ t.zm.alerts, (c.zone.get a.zone).isSome = true) ∧
    t.zm.alerts =
      (s.zm.alerts.filter fun a => (c.zone.get a.zone).isSome).map (fun a =>
        match moved a.zone with
        | some (_, after) =>
          { a with nowLevel := after.level, nowBlind := after.blind, lastCycle := s.ps.cycle
                   changes := if a.changes < 255 then a.changes + 1 else 255 }
        | none => a) ++
      c.zone.keys.filterMap (fun z =>
        if s.zm.alerts.any (fun a => a.zone == z) = true then none
        else (moved z).map fun m =>
          { zone := z, fromLevel := m.1.level, fromBlind := m.1.blind, nowLevel := m.2.level, nowBlind := m.2.blind
            changes := 1, firstCycle := s.ps.cycle, lastCycle := s.ps.cycle })

/-- A request that is not answered OK changes nothing, except that BROKEN clears the broken marker (R123, R124, R169, R170). -/
def Obligations.RefusalsChangeNothing : Prop :=
  ∀ (r : Option Request) (payload : List Byte) (s : State),
    (judgeRequest r payload s).status ≠ .ok →
    (judgeRequest r payload s).state = s ∨
    ((judgeRequest r payload s).status = .broken ∧ s.zm.summary.broken = true ∧
      (judgeRequest r payload s).state = s.setZm { s.zm with summary := { s.zm.summary with broken := false } })

/-! ### The Psychrometric Unit and calibration -/

/-- The table of R68, in tenths of a pascal at hundredths of a degree, and the rise of each interval; and stage 2 (R69,
R73): the interval, the rounding of es10 to the nearest with halves up, its range, its values at the knots,
that it does not decrease, and that saturated air has a dew point within one hundredth of its own temperature. -/
def Obligations.SaturationCurve : Prop :=
  (List.range 12).map knot = [2870, 4220, 6110, 8720, 12260, 17020, 23330, 31600, 42340, 56130, 73670, 95800] ∧
  (List.range 12).map knotTemp = [-1000, -500, 0, 500, 1000, 1500, 2000, 2500, 3000, 3500, 4000, 4500] ∧
  (∀ k, knotRise k = knot (k + 1) - knot k) ∧
  (∀ ta : Int, -1000 ≤ ta → ta ≤ 4500 →
    satInterval ta ≤ 10 ∧ knotTemp (satInterval ta) ≤ ta ∧ ta ≤ knotTemp (satInterval ta) + 500 ∧
    (ta < 4500 → ta < knotTemp (satInterval ta) + 500) ∧
    2 * knotRise (satInterval ta) * (ta - knotTemp (satInterval ta)) - 500 <
      1000 * (satPressure ta - knot (satInterval ta)) ∧
    1000 * (satPressure ta - knot (satInterval ta)) ≤
      2 * knotRise (satInterval ta) * (ta - knotTemp (satInterval ta)) + 500 ∧
    2870 ≤ satPressure ta ∧ satPressure ta ≤ 95800 ∧
    ta - 1 ≤ dewPoint ta 10000 ∧ dewPoint ta 10000 ≤ ta) ∧
  (∀ k : Nat, k ≤ 11 → satPressure (knotTemp k) = knot k) ∧
  (∀ ta tb : Int, -1000 ≤ ta → ta ≤ tb → tb ≤ 4500 → satPressure ta ≤ satPressure tb)

/-- Stages 1, 3, 4 and 5 (R72, R74 to R77): AIR_RANGE is the result exactly when Ta lies outside −1000..4500, whatever RH and
Ts are; e10 is es10·RH/10000 to the nearest with halves up, 0 at RH 0, es10 at RH 10000, within 0..es10, and it does not
decrease as RH increases; below 2870 the dew point is −1000 with DEW_LOW, and from there it is Tj plus N/D to the nearest
with halves up, the knots' temperatures at the knots, 4500 at the last, within −1000..4500, and it does not decrease; Td is
the smaller of stage 4's Td and Ta, with stage 4's DEW_LOW flag, within −1000..4500. -/
def Obligations.DewPointStages : Prop :=
  (∀ (x : PairInputs) (history : List Int) (lookahead : Nat),
    compute x history lookahead = .airRange ↔ x.ta < -1000 ∨ 4500 < x.ta) ∧
  (∀ es rh : Int, vapourPressure es rh = (es * rh + 5000) / 10000 ∧
    es * rh - 5000 < 10000 * vapourPressure es rh ∧ 10000 * vapourPressure es rh ≤ es * rh + 5000) ∧
  (∀ es : Int, vapourPressure es 0 = 0 ∧ vapourPressure es 10000 = es) ∧
  (∀ es rh : Int, 0 ≤ es → 0 ≤ rh → rh ≤ 10000 → 0 ≤ vapourPressure es rh ∧ vapourPressure es rh ≤ es) ∧
  (∀ es r1 r2 : Int, 0 ≤ es → r1 ≤ r2 → vapourPressure es r1 ≤ vapourPressure es r2) ∧
  (∀ e : Int, (dewIsLow e = true ↔ e < 2870) ∧ (e < 2870 → dewLookup e = -1000) ∧ (95800 ≤ e → dewLookup e = 4500) ∧
    -1000 ≤ dewLookup e ∧ dewLookup e ≤ 4500) ∧
  (∀ (j : Nat) (e : Int), j ≤ 10 → knot j ≤ e → e < knot (j + 1) →
    let n := 500 * (e - knot j)
    let d := knot (j + 1) - knot j
    dewLookup e = knotTemp j + (2 * n + d) / (2 * d) ∧
    2 * n - d < 2 * d * (dewLookup e - knotTemp j) ∧ 2 * d * (dewLookup e - knotTemp j) ≤ 2 * n + d ∧
    knotTemp j ≤ dewLookup e ∧ dewLookup e ≤ knotTemp j + 500) ∧
  (∀ k : Nat, k ≤ 11 → dewLookup (knot k) = knotTemp k) ∧
  (∀ e f : Int, e ≤ f → dewLookup e ≤ dewLookup f) ∧
  (∀ (x : PairInputs) (history : List Int) (lookahead : Nat) (td m : Int) (mp : Option Int) (dewLow : Bool),
    compute x history lookahead = .computed td m mp dewLow →
    td = min (dewLookup (vapourPressure (satPressure x.ta) x.rh)) x.ta ∧
    dewLow = dewIsLow (vapourPressure (satPressure x.ta) x.rh) ∧
    -1000 ≤ td ∧ td ≤ 4500 ∧ td ≤ x.ta)

/-- Stage 6 (R78): M = Ts − Td exactly, within −8500..7000; for fixed Ts it does not increase as RH or Ta increases; for fixed
Ta and RH it increases by exactly as much as Ts. -/
def Obligations.MarginFollowsInputs : Prop :=
  (∀ (x : PairInputs) (history : List Int) (lookahead : Nat) (td m : Int) (mp : Option Int) (dewLow : Bool),
    compute x history lookahead = .computed td m mp dewLow → -4000 ≤ x.ts → x.ts ≤ 6000 →
    m = x.ts - td ∧ -8500 ≤ m ∧ m ≤ 7000) ∧
  (∀ (x y : PairInputs) (hx hy : List Int) (lx ly : Nat) (tx mx ty my : Int) (px py : Option Int) (dx dy : Bool),
    compute x hx lx = .computed tx mx px dx → compute y hy ly = .computed ty my py dy →
    0 ≤ x.rh → x.rh ≤ y.rh → y.rh ≤ 10000 → x.ta ≤ y.ta →
    my - y.ts ≤ mx - x.ts ∧
    (x.ta = y.ta → x.rh = y.rh → my - mx = y.ts - x.ts))

/-- Stage 7 (R79, R80): Mp is present exactly when the history holds at least 3 margins and the lookahead is above 0; it is M
plus the slope term, truncated toward zero, limited to −9999..9999. -/
def Obligations.ProjectionAtLookahead : Prop :=
  ∀ (x : PairInputs) (history : List Int) (lookahead : Nat) (td m : Int) (mp : Option Int) (dewLow : Bool),
    compute x history lookahead = .computed td m mp dewLow →
    (mp.isSome = true ↔ 3 ≤ history.length ∧ 0 < lookahead) ∧
    (∀ (p oldest : Int) (rest : List Int), mp = some p → history = oldest :: rest →
      ∃ slope : Int,
        slope.natAbs = ((m - oldest).natAbs * lookahead) / history.length ∧
        (m < oldest → slope ≤ 0) ∧ (oldest ≤ m → 0 ≤ slope) ∧
        p = max (-9999) (min 9999 (m + slope)))

/-- Calibration (R41, R42): the unclamped value is ref_lo plus N/D rounded to the nearest with halves away from zero; the
calibrated value is that figure clamped to the kind's range, CLAMPED exactly when clamping changed it. -/
def Obligations.CalibrationRounds : Prop :=
  ∀ (row : ProbeRow) (raw : Nat), row.wellFormed = true → raw ≤ 65535 →
    let n : Int := ((raw : Int) - row.rawLo) * (row.refHi - row.refLo)
    let d : Int := (row.rawHi : Int) - row.rawLo
    let q : Int := unclampedValue row raw - row.refLo
    d ≠ 0 ∧ d.natAbs ≤ 65535 ∧ n.natAbs ≤ 655350000 ∧
    q.natAbs = (2 * n.natAbs + d.natAbs) / (2 * d.natAbs) ∧
    (n * d < 0 → q ≤ 0) ∧ (0 ≤ n * d → 0 ≤ q) ∧
    2 * (q * d - n).natAbs ≤ d.natAbs ∧
    (2 * (q * d - n).natAbs = d.natAbs → n.natAbs < (q * d).natAbs) ∧
    (unclampedValue row raw < row.kind.lowEnd → calibratedValue row raw = row.kind.lowEnd) ∧
    (row.kind.highEnd < unclampedValue row raw → calibratedValue row raw = row.kind.highEnd) ∧
    (row.kind.lowEnd ≤ unclampedValue row raw → unclampedValue row raw ≤ row.kind.highEnd →
      calibratedValue row raw = unclampedValue row raw ∧ calibratedQuality row raw = .good) ∧
    (calibratedQuality row raw = .clamped ↔ calibratedValue row raw ≠ unclampedValue row raw) ∧
    (calibratedQuality row raw = .good ↔ calibratedValue row raw = unclampedValue row raw)

/-! ### Readings -/

/-- Readings (R43 to R50, R52, R61, R62): what an intake event leaves in a channel of its node without a force entry, with a
PIN and with a SUBSTITUTE; that channels of other nodes are not touched; and how long a reading stays usable. That a
SUBSTITUTE acts where an OK record of its slot is followed by a WARMING one is the model's choice (notes/assumptions/23.md). -/
def Obligations.ReadingEvents : Prop :=
  (∀ (s : State) (n : Notice) (k : Nat) (row : ProbeRow) (r : Reading), s.tb.active.installable →
    s.tb.active.probe.get k = some row → s.si.readings.get k = some r →
    let after := (intakeEvent n s).si.readings.get k
    (row.node ≠ n.node → after = some r) ∧
    (row.node = n.node → s.si.forces.get k = none →
      (∀ samples, n.taken = .newBlock samples →
        after = some ((samples.filter fun x => x.slot == row.slot).foldl (sampleEffect s.ps.cycle n row) r)) ∧
      (∀ code, n.taken = .fault code →
        after = some (if r.quality = .none then r else { r with quality := .fault, fresh := 0 })) ∧
      (n.taken = .nothing ∨ n.taken = .outOfStep ∨ n.taken = .empty ∨ n.taken = .answer → after = some r)) ∧
    (∀ v, row.node = n.node → s.si.forces.get k = some { value := v, kind := .pin } →
      after = some { quality := .forced, value := some v, fresh := row.freshCycles, stamp := some s.ps.cycle
                     line := none, marked := false }) ∧
    (∀ v, row.node = n.node → s.si.forces.get k = some { value := v, kind := .substitute } →
      (∀ samples, n.taken = .newBlock samples →
        let mine := samples.filter fun x => x.slot == row.slot
        let left := mine.foldl (sampleEffect s.ps.cycle n row) r
        after = some (if (mine.filter fun x => decide (x.status ≠ .warming)).getLast?.any (fun x => decide (x.status = .ok))
          then { left with quality := .forced, value := some v } else left)) ∧
      (∀ code, n.taken = .fault code →
        after = some (if r.quality = .none then r else { r with quality := .fault, fresh := 0 })) ∧
      (n.taken = .nothing ∨ n.taken = .outOfStep ∨ n.taken = .empty ∨ n.taken = .answer → after = some r))) ∧
  (∀ (s : State) (k : Nat) (r : Reading), s.si.readings.get k = some r →
    (countDown s).si.readings.get k = some r.countDown ∧
    (stopReadings s).si.readings.get k =
      some (if r.quality.usable then { r with quality := .stale, fresh := 0 } else r)) ∧
  (∀ (r : Reading) (i : Nat), 1 ≤ r.fresh →
    Reading.countDown^[i] r =
      if i < r.fresh then { r with fresh := r.fresh - i } else { r with fresh := 0, quality := .stale })

/-! ### Pairs and zones -/

/-- Classes (R94, R95): where each class begins, that a smaller margin is at least as severe, that the class after hysteresis
is at least as severe as the class and equal to it at hyst 0, and when the trend flag is set. -/
def Obligations.ClassesAndHysteresis : Prop :=
  ∀ (z : ZoneRow) (m : Int) (mp : Option Int), z.wellFormed = true →
    (classify z 0 m mp = .wet ↔ m ≤ z.wetAt) ∧
    (Level.near.rank ≤ (classify z 0 m mp).rank ↔ m ≤ z.nearAt) ∧
    (Level.watch.rank ≤ (classify z 0 m mp).rank ↔ m ≤ z.watchAt ∨ ∃ p ∈ mp, p ≤ z.nearAt) ∧
    (classify z z.hyst m mp = .wet ↔ m ≤ z.wetAt + z.hyst) ∧
    (Level.near.rank ≤ (classify z z.hyst m mp).rank ↔ m ≤ z.nearAt + z.hyst) ∧
    (Level.watch.rank ≤ (classify z z.hyst m mp).rank ↔ m ≤ z.watchAt + z.hyst ∨ ∃ p ∈ mp, p ≤ z.nearAt) ∧
    (classify z 0 m mp).rank ≤ (classify z z.hyst m mp).rank ∧
    (z.hyst = 0 → classify z z.hyst m mp = classify z 0 m mp) ∧
    (∀ m', m' ≤ m → (classify z 0 m mp).rank ≤ (classify z 0 m' mp).rank) ∧
    (trendFlag z m mp = true ↔ z.watchAt < m ∧ ∃ p ∈ mp, p ≤ z.nearAt)

/-- The risk state machine (R96 to R99): a pair out of UNKNOWN takes its class at once; a rise or a fall completes at exactly
rise_count or fall_count evaluations in an unbroken run and takes the class (after hysteresis, for a fall) of the last; from
whatever runs, an evaluation of more severe class adds to the rise and sets the fall to 0, one that is less severe after
hysteresis adds to the fall and sets the rise to 0, and either completes its move when its run reaches its count; an
evaluation at the pair's own class, or one that has not cleared hyst, ends any run. -/
def Obligations.RunsCompleteAMove : Prop :=
  ∀ z : ZoneRow, z.wellFormed = true →
    (∀ reason rise fall m mp, riskStep z (.unknown reason) rise fall m mp = (classify z 0 m mp, 0, 0)) ∧
    (∀ (l : Level) (run : List (Int × Option Int)) (last : Int × Option Int),
      (∀ e ∈ run ++ [last], l.rank < (classify z 0 e.1 e.2).rank) →
      (run.length + 1 < z.riseCount → riskRun z l (run ++ [last]) = (l, run.length + 1, 0)) ∧
      (run.length + 1 = z.riseCount → riskRun z l (run ++ [last]) = (classify z 0 last.1 last.2, 0, 0))) ∧
    (∀ (l : Level) (run : List (Int × Option Int)) (last : Int × Option Int),
      (∀ e ∈ run ++ [last], (classify z z.hyst e.1 e.2).rank < l.rank) →
      (run.length + 1 < z.fallCount → riskRun z l (run ++ [last]) = (l, 0, run.length + 1)) ∧
      (run.length + 1 = z.fallCount → riskRun z l (run ++ [last]) = (classify z z.hyst last.1 last.2, 0, 0))) ∧
    (∀ (l : Level) (rise fall : Nat) (m : Int) (mp : Option Int), l.rank < (classify z 0 m mp).rank →
      (rise + 1 < z.riseCount → riskStep z (.judged l) rise fall m mp = (l, rise + 1, 0)) ∧
      (z.riseCount ≤ rise + 1 → riskStep z (.judged l) rise fall m mp = (classify z 0 m mp, 0, 0))) ∧
    (∀ (l : Level) (rise fall : Nat) (m : Int) (mp : Option Int), (classify z z.hyst m mp).rank < l.rank →
      (fall + 1 < z.fallCount → riskStep z (.judged l) rise fall m mp = (l, 0, fall + 1)) ∧
      (z.fallCount ≤ fall + 1 → riskStep z (.judged l) rise fall m mp = (classify z z.hyst m mp, 0, 0))) ∧
    (∀ (l : Level) (rise fall : Nat) (m : Int) (mp : Option Int),
      classify z 0 m mp = l ∨
        ((classify z 0 m mp).rank < l.rank ∧ l.rank ≤ (classify z z.hyst m mp).rank) →
      riskStep z (.judged l) rise fall m mp = (l, 0, 0))

/-- An evaluation (R87, R88, R91 to R93, R100, R101): the first unusable input makes the pair UNKNOWN with INPUT_NONE,
INPUT_FAULT or INPUT_STALE by its quality NONE, FAULT or STALE, else an air reading that is too old with SKEW, else an air
temperature out of range with AIR_RANGE; otherwise the record takes the figures of the computation, the outcome of the state
machine, and the margin as the newest of at most 8. The age of a reading is (current cycle − stamp) modulo 65536 (R92). -/
def Obligations.EvaluationOutcomes : Prop :=
  (∀ (cycle stamp : Half) (r : Reading), r.stamp = some stamp →
    (readingAge cycle r : Int) = ((cycle.toNat : Int) - stamp.toNat) % 65536) ∧
  ∀ (s : State) (row : PairRow) (r : PairRecord),
    let q := fun k => (s.reading k).quality
    let unknown : Reason → PairRecord := fun reason =>
      { r with state := .unknown reason, history := [], riseRun := 0, fallRun := 0, lastEval := some s.ps.cycle }
    let x : PairInputs := { ta := (s.reading row.airT).value.getD 0, rh := (s.reading row.airRh).value.getD 0
                            ts := (s.reading row.surface).value.getD 0 }
    let fresh := readingAge s.ps.cycle (s.reading row.airT) ≤ row.skewLimit ∧
      readingAge s.ps.cycle (s.reading row.airRh) ≤ row.skewLimit
    (∀ k before rest, [row.airT, row.airRh, row.surface] = before ++ k :: rest → (∀ j ∈ before, (q j).usable = true) →
      (q k = .none → evaluated s row r = unknown .inputNone) ∧
      (q k = .fault → evaluated s row r = unknown .inputFault) ∧
      (q k = .stale → evaluated s row r = unknown .inputStale)) ∧
    (∀ k, (q k).usable = true ↔ q k = .good ∨ q k = .clamped ∨ q k = .forced) ∧
    ((∀ k ∈ [row.airT, row.airRh, row.surface], (q k).usable = true) →
      (¬ fresh → evaluated s row r = unknown .skew) ∧
      (fresh → (x.ta < -1000 ∨ 4500 < x.ta) → evaluated s row r =
        { unknown .airRange with inputs := some x, lastTd := none, lastM := none, lastMp := none
                                 dewLow := false, trend := false }) ∧
      (∀ td m mp dewLow, fresh → compute x r.history (s.zoneRow row.zone).lookahead = .computed td m mp dewLow →
        ∃ level rise fall,
          riskStep (s.zoneRow row.zone) r.state r.riseRun r.fallRun m mp = (level, rise, fall) ∧
          (evaluated s row r).state = .judged level ∧ (evaluated s row r).riseRun = rise ∧
          (evaluated s row r).fallRun = fall ∧ (evaluated s row r).inputs = some x ∧
          (evaluated s row r).lastTd = some td ∧ (evaluated s row r).lastM = some m ∧
          (evaluated s row r).lastMp = mp ∧ (evaluated s row r).dewLow = dewLow ∧
          (evaluated s row r).trend = trendFlag (s.zoneRow row.zone) m mp ∧
          (evaluated s row r).lastEval = some s.ps.cycle ∧
          (r.history.length ≤ 8 → (evaluated s row r).history =
            (r.history ++ [m]).drop (r.history.length + 1 - 8))))

/-- A recompute (R110) over members in ascending pair number whose judged members have a last_m: the counts, the level as the
most severe judged state, the blind flag, and the worst margin with the lowest pair that holds it. -/
def Obligations.RecomputeIsTheWorstMember : Prop :=
  ∀ (blindLimit : Nat) (ms : List (Nat × PairRecord)), Keyed.wf ms →
    (∀ e ∈ ms, e.2.state.level? ≠ none → e.2.lastM.isSome = true) →
    let z := recompute blindLimit ms
    z.unknownCount + z.clearCount + z.watchCount + z.nearCount + z.wetCount = ms.length ∧
    z.unknownCount = (ms.filter fun e => e.2.state.level? == none).length ∧
    z.clearCount = (ms.filter fun e => e.2.state == .judged .clear).length ∧
    z.watchCount = (ms.filter fun e => e.2.state == .judged .watch).length ∧
    z.nearCount = (ms.filter fun e => e.2.state == .judged .near).length ∧
    z.wetCount = (ms.filter fun e => e.2.state == .judged .wet).length ∧
    (z.blind = true ↔ blindLimit < z.unknownCount) ∧
    (∀ e ∈ ms, ∀ l ∈ e.2.state.level?, l.rank ≤ z.level.rank) ∧
    ((∃ e ∈ ms, e.2.state = .judged z.level) ∨ (z.level = .clear ∧ ∀ e ∈ ms, e.2.state.level? = none)) ∧
    (z.worst = none ↔ ∀ e ∈ ms, e.2.state.level? = none) ∧
    (∀ w, z.worst = some w →
      (∃ e ∈ ms, e.1 = w.pair ∧ e.2.state.level? ≠ none ∧ e.2.lastM = some w.margin) ∧
      (∀ e ∈ ms, ∀ m, e.2.state.level? ≠ none → e.2.lastM = some m →
        w.margin < m ∨ (w.margin = m ∧ w.pair ≤ e.1)))

/-- An alert (R112): appended at the tail for a zone that has none, and otherwise only the zone's entry is updated, in place.
A notice of a zone recomputes it and records an alert exactly when its level or its blind flag has changed (R110, R111). -/
def Obligations.AlertIsRecorded : Prop :=
  (∀ (cycle : Half) (zone : Nat) (before after : ZoneRecord) (alerts : List Alert),
    (alerts.map fun a => a.zone).Nodup →
    ((∀ a ∈ alerts, a.zone ≠ zone) → recordAlert cycle zone before after alerts =
      alerts ++ [{ zone := zone, fromLevel := before.level, fromBlind := before.blind, nowLevel := after.level
                   nowBlind := after.blind, changes := 1, firstCycle := cycle, lastCycle := cycle }]) ∧
    (∀ (front back : List Alert) (a : Alert), alerts = front ++ a :: back → a.zone = zone → a.changes ≤ 255 →
      recordAlert cycle zone before after alerts =
        front ++ { a with nowLevel := after.level, nowBlind := after.blind, changes := min 255 (a.changes + 1)
                          lastCycle := cycle } :: back)) ∧
  (∀ (s : State) (zone : Nat) (row : ZoneRow) (noted : ZoneRecord),
    s.tb.active.zone.get zone = some row → s.zm.zones.get zone = some noted →
    let t := zoneNotice zone s
    let new := recompute row.blindLimit (members s.tb.active.pair s.pe.pairs zone)
    t.zm.zones.get zone = some new ∧ (∀ z, z ≠ zone → t.zm.zones.get z = s.zm.zones.get z) ∧
    (new.level = noted.level → new.blind = noted.blind → t.zm.alerts = s.zm.alerts) ∧
    (new.level ≠ noted.level ∨ new.blind ≠ noted.blind →
      t.zm.alerts = recordAlert s.ps.cycle zone noted new s.zm.alerts) ∧
    t = s.setZm { s.zm with zones := t.zm.zones, alerts := t.zm.alerts })

/-! ### The poll cycle and the trunk -/

/-- Cycle completion (R30, R32, R118 to R120, R125): what the Zone Monitor publishes, defers or breaks, and whether the Poll
Scheduler waits, overruns into the next cycle, or stops. The stop (R32, R54, R103, R105, R115, R126): an open summary sequence
is broken, the part is halted in IDLE, every usable reading becomes STALE with fresh 0 and keeps the rest, and each judged
pair, in ascending pair number, becomes UNKNOWN(STOPPED) with its history and runs cleared and its figures kept, with a zone
notice after it, while an UNKNOWN pair keeps every field. A pending commit is taken at the stop, before that work or after it
(R143, R145, R146); which of the two is a free value (notes/assumptions/5.md). -/
def Obligations.CycleCompletes : Prop :=
  ∀ (s : State) (overrun : State → State),
    let published : Bank := { publicationCycle := some s.ps.cycle, records := s.zm.zones }
    let halted : State := { s with
        ps := { s.ps with phase := .halted, timer := .stopped, position := none }
        mc := { s.mc with mode := .idle }
        zm := if s.zm.summary.isOpen = true then
            { s.zm with
              bank := if 0 < s.zm.summary.held then published else s.zm.bank
              summary := { isOpen := false, nextRecord := 0, held := 0, broken := true } }
          else s.zm }
    let stopped : PairRecord → PairRecord := fun r =>
        { r with state := .unknown .stopped, history := [], riseRun := 0, fallRun := 0 }
    (s.zm.summary.isOpen = false → (zoneCompletion s).zm = { s.zm with bank := published }) ∧
    (s.zm.summary.isOpen = true → s.zm.summary.held < 4 → s.mc.mode ≠ .stopping →
      (zoneCompletion s).zm = { s.zm with summary := { s.zm.summary with held := s.zm.summary.held + 1 } }) ∧
    (s.zm.summary.isOpen = true → (4 ≤ s.zm.summary.held ∨ s.mc.mode = .stopping) →
      (zoneCompletion s).zm = { s.zm with
        bank := published, summary := { isOpen := false, nextRecord := 0, held := 0, broken := true } }) ∧
    (s.mc.mode = .stopping → cycleCompletion overrun s = stop (zoneCompletion (s.setPs { s.ps with position := none }))) ∧
    (∀ period, s.mc.mode = .survey → s.ps.timer = .running period → cycleCompletion overrun s =
      (zoneCompletion s).setPs { s.ps with position := none, phase := .waiting }) ∧
    (s.mc.mode = .survey → s.ps.timer = .expired → cycleCompletion overrun s =
      overrun ((zoneCompletion s).setPs { s.ps with position := none, overruns := min 255 (s.ps.overruns + 1) })) ∧
    (stop s).mc = { s.mc with mode := .idle } ∧
    (stop s).ps = { s.ps with phase := .halted, timer := .stopped, position := none } ∧
    (stop s).ru = s.ru ∧ (stop s).ti.exchange = s.ti.exchange ∧ (stop s).tb.pendingCommit = none ∧
    (stop s).tb.load = s.tb.load ∧ (stop s).zm.summary.isOpen = false ∧
    (stop s).zm.summary.broken = (s.zm.summary.broken || s.zm.summary.isOpen) ∧
    (stop s).zm.bank = (if s.zm.summary.isOpen = true ∧ 0 < s.zm.summary.held then published else s.zm.bank) ∧
    (s.tb.pendingCommit = none → stop s = stopPairs (stopReadings halted)) ∧
    (∀ c, s.tb.pendingCommit = some c →
      (stop s).tb = { s.tb with active := c, staged := {}, pendingCommit := none } ∧
      (stop s = stopPairs (stopReadings (takeCommit c halted.nextOrder)) ∨
        stop s = takeCommit c (stopPairs (stopReadings halted.nextOrder)))) ∧
    stopReadings s = s.setSi { s.si with readings := (stopReadings s).si.readings } ∧
    (∀ k, (stopReadings s).si.readings.get k = (s.si.readings.get k).map fun r =>
      if r.quality = .good ∨ r.quality = .clamped ∨ r.quality = .forced then { r with quality := .stale, fresh := 0 } else r) ∧
    stopPairs s = s.tb.active.pair.foldl (fun u e =>
      match u.pe.pairs.get e.1 with
      | none => u
      | some r =>
        match r.state with
        | .unknown _ => u
        | .judged _ => zoneNotice e.2.zone (u.setPe { u.pe with pairs := u.pe.pairs.put e.1 (stopped r) })) s ∧
    (∀ p, (stopPairs s).pe.pairs.get p = (s.pe.pairs.get p).map fun r =>
      if (s.tb.active.pair.get p).isSome = true ∧ r.state.level? ≠ none then stopped r else r)

/-- A node's record at the completion of a POLL exchange (R10, R12, R13, R15, R16): line switchover, the expect toggle,
quarantine and the line diagnosis, by which lines were usable and what was taken: the reply of the node's active line, or
else that of the other of lines A and B (R11). -/
def Obligations.NodeRecordAtCompletion : Prop :=
  (∀ a b : Conclusion, pickLine .a a b = a ∧ pickLine .b a b = b ∧ otherLine .a = .b ∧ otherLine .b = .a) ∧
  ∀ (r : NodeRecord) (g : GeneralRow) (accept : Bool) (a b : Conclusion),
    let n := r.complete g accept a b
    let own := (pickLine r.activeLine a b).usable accept
    let other := (pickLine (otherLine r.activeLine) a b).usable accept
    let taken := own.or other
    (∀ reply, (Conclusion.good reply).usable accept = some (false, reply) ∧
      (Conclusion.marked reply).usable true = some (true, reply) ∧ (Conclusion.marked reply).usable false = none) ∧
    (∀ c : Conclusion, c.outcome ≠ .good → c.outcome ≠ .marked → c.usable accept = none) ∧
    (own.isSome = true → n.activeLine = r.activeLine ∧ n.otherOnly = 0) ∧
    (own = none → other.isSome = true → g.lineSwitchAfter ≤ r.otherOnly + 1 →
      n.activeLine = otherLine r.activeLine ∧ n.otherOnly = 0) ∧
    (own = none → other.isSome = true → r.otherOnly + 1 < g.lineSwitchAfter →
      n.activeLine = r.activeLine ∧ n.otherOnly = r.otherOnly + 1) ∧
    (own = none → other = none → n.activeLine = r.activeLine ∧ n.otherOnly = r.otherOnly) ∧
    (∀ m records, taken = some (m, .data r.expectToggle records) →
      n.expectToggle = (!r.expectToggle) ∧ n.outOfStepTotal = r.outOfStepTotal) ∧
    (∀ m records, taken = some (m, .data (!r.expectToggle) records) →
      n.expectToggle = r.expectToggle ∧ n.outOfStepTotal = satSucc 65535 r.outOfStepTotal) ∧
    ((∀ m t records, taken ≠ some (m, .data t records)) →
      n.expectToggle = r.expectToggle ∧ n.outOfStepTotal = r.outOfStepTotal) ∧
    (taken.isSome = true → n.failRun = 0 ∧ n.quarantined = false) ∧
    (taken = none → r.quarantined = true → n.failRun = g.quarantineAfter ∧ n.quarantined = true) ∧
    (taken = none → r.quarantined = false → g.quarantineAfter ≤ r.failRun + 1 →
      n.failRun = g.quarantineAfter ∧ n.quarantined = true) ∧
    (taken = none → r.quarantined = false → r.failRun + 1 < g.quarantineAfter →
      n.failRun = r.failRun + 1 ∧ n.quarantined = false) ∧
    n.lastOutcomeA = some a.outcome ∧ n.lastOutcomeB = some b.outcome ∧
    n.failTotalA = (if (a.usable accept).isSome then r.failTotalA else satSucc 65535 r.failTotalA) ∧
    n.failTotalB = (if (b.usable accept).isSome then r.failTotalB else satSucc 65535 r.failTotalB) ∧
    (∀ m reply, taken = some (m, reply) → n.lastReplyKind = some reply.kind) ∧
    (taken = none → n.lastReplyKind = r.lastReplyKind) ∧
    (∀ m code, taken = some (m, .fault code) → n.lastFaultCode = some code) ∧
    ((∀ m code, taken ≠ some (m, .fault code)) → n.lastFaultCode = r.lastFaultCode) ∧
    n.skipRemaining = r.skipRemaining

/-- A node that keeps to R4 is never OUT_OF_STEP (R13); a block whose reply was lost is sent again at the next poll with
the same expect toggle, whatever new samples there are; and once the toggle has flipped the block is treated as taken (R4,
R5). A node in internal fault answers FAULT (R5); that it keeps its held block then, whatever toggle the poll carries (the
last clause), is the model's choice, which R4 and R5 leave open (notes/assumptions/21.md). The node is the model's function
outside State (the same entry). -/
def Obligations.LostReplyIsRepeated : Prop :=
  ∀ (held : Option HeldBlock) (news later : Option (List SampleRecord)) (e : Bool),
    let first := nodeAnswersPoll held news none e
    (∀ fault l m, takenOf e (some (l, m, (nodeAnswersPoll held news fault e).1)) ≠ .outOfStep) ∧
    (∀ records, first.1 = .data e records → nodeAnswersPoll first.2 later none e = first) ∧
    (∀ records, first.1 = .data e records → nodeAnswersPoll first.2 later none (!e) =
      match later with
      | some new => (.data (!e) new, some { records := new, toggle := !e })
      | none => (.empty, none)) ∧
    (first.1 = .empty ↔ news = none ∧ ∀ h ∈ held, h.toggle ≠ e) ∧
    (∀ code, nodeAnswersPoll held news (some code) e = (.fault code, held))

/-- The walk and its visits (R22, R26 to R29, R154, R155). The walk visits the rows in ascending position from before the first
row, or from after the walk position when it resumes; it goes on past rows that are passed over and waits at the first whose
frame is sent; when no row is left, the cycle completes. At each row: when it is passed over and when its frame is sent,
and what changes then; everything not named stays as it was. -/
def Obligations.RowVisits : Prop :=
  (∀ (front back : Keyed PollRow) (e : Nat × PollRow) (s : State),
    let visits : Keyed PollRow → State := fun rows => rows.foldl (fun s e => (visitRow e.1 e.2 s).1) s
    (∀ before x after, front = before ++ x :: after → (visitRow x.1 x.2 (visits before)).2 = false) →
    walkRows front s = (visits front, false) ∧
    ((visitRow e.1 e.2 (visits front)).2 = true →
      walkRows (front ++ e :: back) s = ((visitRow e.1 e.2 (visits front)).1, true))) ∧
  (∀ (s : State) (p : Nat),
    (s.ps.position = none → s.rowsAhead = s.tb.active.poll) ∧
    (s.ps.position = some p → Keyed.wf s.tb.active.poll →
      Keyed.wf s.rowsAhead ∧ ∀ i row, (i, row) ∈ s.rowsAhead ↔ p < i ∧ (i, row) ∈ s.tb.active.poll)) ∧
  (∀ s t : State,
    (walkRows s.rowsAhead s = (t, true) → continueWalk s = t) ∧
    (walkRows s.rowsAhead s = (t, false) → continueWalk s = cycleCompletion openCycle t) ∧
    (walkRows (cycleStart s).rowsAhead (cycleStart s) = (t, true) → openCycle s = t) ∧
    (walkRows (cycleStart s).rowsAhead (cycleStart s) = (t, false) → openCycle s = cycleCompletion id t) ∧
    (cycleStart s).ps.position = none) ∧
  ∀ (s : State) (position : Nat),
    let at' := s.setPs { s.ps with position := some position }
    (∀ node timeout accept r, s.ti.nodes.get node = some r → 0 < r.skipRemaining →
      visitRow position (.poll node timeout accept) s =
        (at'.setTi { s.ti with nodes := s.ti.nodes.modify node fun r => { r with skipRemaining := r.skipRemaining - 1 } },
          false)) ∧
    (∀ node timeout accept r, s.ti.nodes.get node = some r → r.skipRemaining = 0 → r.quarantined = true →
      ¬ s.tb.active.general.quarantineInterval ∣ s.ps.cycle.toNat →
      visitRow position (.poll node timeout accept) s = (at', false)) ∧
    (∀ node timeout accept r, s.ti.nodes.get node = some r → r.skipRemaining = 0 →
      (r.quarantined = false ∨ s.tb.active.general.quarantineInterval ∣ s.ps.cycle.toNat) →
      visitRow position (.poll node timeout accept) s =
        (at'.setTi { s.ti with
          exchange := some
            { kind := .poll, phase := .due, node := node, replyTimeout := timeout, acceptMarked := accept
              toggle := r.expectToggle, payload := [], timedOut := false
              lineA := .listening false, lineB := .listening false } }, true)) ∧
    (∀ q rest, s.ru.queue = q :: rest → s.ru.results.length + s.ru.inFlight.toList.length < 8 →
      visitRow position .relay s =
        ((at'.setRu { s.ru with queue := rest, inFlight := some q }).setTi { s.ti with
          exchange := some
            { kind := .relay, phase := .due, node := q.node, replyTimeout := q.replyTimeout, acceptMarked := false
              toggle := false, payload := q.payload, timedOut := false
              lineA := .listening false, lineB := .listening false } }, true)) ∧
    (s.ru.queue = [] ∨ 8 ≤ s.ru.results.length + s.ru.inFlight.toList.length →
      visitRow position .relay s = (at', false))

/-! ### Power, reset, start and store -/

/-- The entry to START (R21, R37, R150, R161, R178, R185 to R187, R190, R192) by POWER_ON, RESET_RELEASE and
RESTART_TAKEN: everything is set afresh, RESTART keeps the overrun count and the uplink error count with its marker, and
the store's image decides the store state, the save count and the active tables. The model's choices: POWER_ON while the
reset input is asserted, and RESET_RELEASE without supply (notes/assumptions/10.md), that a restart waits for the response to
RESTART itself and for that to a later request (notes/assumptions/9.md), and that a RESET_RELEASE or RESTART_TAKEN that cannot
arise changes nothing (notes/assumptions/2.md). -/
def Obligations.EntryToStart : Prop :=
  ∀ s : State,
    let found := storeFinding s.cs.image
    let start : StartReason → Nat → Nat → Bool → Supply → State := fun reason overruns errors overflow supply =>
      { supply := supply
        ti := { receiversOn := false, dirA := false, dirB := false, exchange := none, nodes := [] }
        ps := { phase := .halted, cycle := 0, timer := .stopped, position := none, overruns := overruns }
        si := { readings := [], forces := [] }
        pe := { pairs := [] }
        zm := { zones := [], bank := { publicationCycle := none, records := [] }, alerts := []
                summary := { isOpen := false, nextRecord := 0, held := 0, broken := false } }
        tb := { active := found.2.2, staged := {}, load := none, pendingCommit := none }
        ru := { queue := [], inFlight := none, results := [] }
        ui := { receiver := .off, heldFrame := none, errors := errors, overflow := overflow, response := none, dir := false }
        mc := { mode := .start, reason := reason, restartPending := false, restartAnswered := false }
        cs := { image := s.cs.image, state := found.1, saveCount := found.2.1, saveWrite := none }
        orderChoices := s.orderChoices
        pending := s.pending }
    (s.supply.resetAsserted = false →
      exec .powerOn s = .next (start .power 0 0 false { powered := true, resetAsserted := false })) ∧
    (s.supply.resetAsserted = true → exec .powerOn s =
      .next { s with supply := { powered := true, resetAsserted := true }, cs := { s.cs with saveWrite := none } }) ∧
    (s.supply = { powered := true, resetAsserted := true } →
      exec .resetRelease s = .next (start .power 0 0 false { powered := true, resetAsserted := false })) ∧
    (s.supply = { powered := false, resetAsserted := true } →
      exec .resetRelease s = .next { s with supply := { powered := false, resetAsserted := false } }) ∧
    (s.supply.resetAsserted = false → exec .resetRelease s = .next s) ∧
    (s.live = true → s.mc.restartPending = true → s.mc.restartAnswered = true → s.cs.saveWrite = none →
      s.ui.response = none → exec .restartTaken s = .next (start .restart s.ps.overruns s.ui.errors s.ui.overflow s.supply)) ∧
    (s.mc.restartPending = false ∨ s.mc.restartAnswered = false ∨ s.cs.saveWrite ≠ none ∨ s.ui.response ≠ none →
      exec .restartTaken s = .next s) ∧
    (s.cs.image = .never → found = (.empty, 0, Tables.empty)) ∧
    (s.cs.image = .incomplete → found = (.damaged, 0, Tables.empty)) ∧
    (∀ bs, s.cs.image = .bytes bs → judge bs = none → found = (.damaged, 0, Tables.empty)) ∧
    (∀ bs n t, s.cs.image = .bytes bs → judge bs = some (n, t) → crossCheck t = none → found = (.valid, n, t)) ∧
    (∀ bs n t, s.cs.image = .bytes bs → judge bs = some (n, t) → crossCheck t ≠ none →
      found = (.damaged, n, Tables.empty))

/-- RESET_ASSERT and POWER_LOSS release every direction control and cut a SAVE in progress short, and until the part is
live again no other command changes anything (R185, R189, R192). What else these two leave, and that an unpowered part
drives no line, is the model's choice (notes/assumptions/10.md). -/
def Obligations.ResetAndPowerLoss : Prop :=
  ∀ s : State,
    let lost : Supply → State := fun supply =>
      { s with supply := supply, ti := { s.ti with dirA := false, dirB := false }, ui := { s.ui with dir := false }
               cs := { s.cs with saveWrite := none } }
    exec .resetAssert s = .next (lost { s.supply with resetAsserted := true }) ∧
    exec .powerLoss s = .next (lost { s.supply with powered := false }) ∧
    (∀ c : Instr, s.live = false → c ∉ [Instr.powerOn, .resetAssert, .resetRelease, .powerLoss] → exec c s = .next s)

/-- The end of START (R21, R57, R67, R107, R127, R165, R178, R188): every block builds its records from the active tables,
the receivers are enabled, and the mode becomes SURVEY with a cycle start at once when auto_survey is on and POLL holds a
row, and IDLE otherwise. Outside START the command changes nothing, which is the model's choice (notes/assumptions/2.md).
-/
def Obligations.StartUpEnds : Prop :=
  ∀ s : State,
    let t := s.tb.active
    let pairs := t.pair.mapRows fun _ _ => ({} : PairRecord)
    let built : Mode → State := fun mode =>
      { s with
        ti := { s.ti with nodes := nodeList t.poll fun _ => {}, receiversOn := true }
        si := { readings := t.probe.mapRows fun _ _ => {}, forces := [] }
        pe := { pairs := pairs }
        zm := { s.zm with zones := t.zone.mapRows fun z row => recompute row.blindLimit (members t.pair pairs z) }
        ui := { s.ui with receiver := .waitIdle }
        mc := { s.mc with mode := mode } }
    (s.live = true → s.mc.mode = .start → t.general.autoSurvey = false ∨ t.poll = [] →
      exec .startUpEnd s = .next (built .idle)) ∧
    (s.live = true → s.mc.mode = .start → t.general.autoSurvey = true → t.poll ≠ [] →
      exec .startUpEnd s = .next (openCycle (built .survey))) ∧
    (s.mc.mode ≠ .start → exec .startUpEnd s = .next s) ∧
    (∀ n, (nodeList t.poll fun _ => ({} : NodeRecord)).get n = if n ∈ pollNodes t.poll then some {} else none)

/-- SAVE and the end of its write (R183, R184): when SAVE is refused, what an accepted SAVE sets and begins to write, and
that its end judges what the memory then holds. The model's choices: the memory during the write (notes/assumptions/7.md),
the operand that says how it ended (notes/assumptions/8.md), and that no end comes without a SAVE
(notes/assumptions/2.md). -/
def Obligations.SaveAndItsWrite : Prop :=
  ∀ (s : State) (a : Byte),
    (Heard s a → s.tb.pendingCommit ≠ none ∨ s.cs.saveWrite ≠ none →
      exec (.save a []) s = .next (answeredWith a 0x05 .busy [] s)) ∧
    (Heard s a → s.tb.pendingCommit = none → s.cs.saveWrite = none →
      let n := min 65535 (s.cs.saveCount + 1)
      exec (.save a []) s = .next (answeredWith a 0x05 .ok (natBytes n) (s.setCs
        { image := .incomplete, state := .damaged, saveCount := n, saveWrite := some (storeImage n s.tb.active) }))) ∧
    (∀ image bs result, s.live = true → s.cs.saveWrite = some image →
      (result = .intact ∧ bs = image ∨ result = .corrupt bs) →
      exec (.saveWriteEnd result) s = .next (s.setCs { s.cs with
        image := .bytes bs, state := if (judge bs).isSome then .valid else .damaged, saveWrite := none })) ∧
    (∀ result, s.cs.saveWrite = none → exec (.saveWriteEnd result) s = .next s)

/-! ### Events of the trunk -/

/-- The cycle timer's expiry (R24) and the opening of a cycle (R23 to R26, R52, R53, R143, R145): the next cycle number, the
timer running for the period then active, a pending commit's candidate set active, every reading counted down, once, whether a commit is taken at the same cycle start or not, and
either an exchange due at the walk position or, every row passed over, the cycle completed. The count-down gives the Pair
Evaluator the readings it makes STALE as its lost list. That a timer which does not run, or runs in HALTED, changes nothing
is the model's choice (notes/assumptions/2.md). -/
def Obligations.CycleTimerExpires : Prop :=
  (∀ (s : State) (period : Nat), s.live = true → s.ps.timer = .running period →
    (s.ps.phase = .waiting → exec .cycleTimerExpiry s = .next (openCycle s)) ∧
    (s.ps.phase = .walking → exec .cycleTimerExpiry s = .next (s.setPs { s.ps with timer := .expired })) ∧
    (s.ps.phase = .halted → exec .cycleTimerExpiry s = .next s)) ∧
  (∀ s : State, s.ps.timer = .stopped ∨ s.ps.timer = .expired → exec .cycleTimerExpiry s = .next s) ∧
  (∀ s : State, s.mc.mode = .survey →
    let t := openCycle s
    let before : IntakeState :=
      match s.tb.pendingCommit with
      | none => s.si
      | some c => (takeCommit c s).si
    t.ps.cycle = s.ps.cycle + 1 ∧ t.ps.timer = .running t.tb.active.general.cyclePeriod ∧
    t.ps.overruns = s.ps.overruns ∧ t.mc = s.mc ∧
    (s.tb.pendingCommit = none → t.tb = s.tb) ∧
    (∀ c, s.tb.pendingCommit = some c → t.tb = { s.tb with active := c, staged := {}, pendingCommit := none }) ∧
    ((t.ps.phase = .walking ∧ ∃ x p row, t.ti.exchange = some x ∧ x.phase = .due ∧ t.ps.position = some p ∧
        (p, row) ∈ t.tb.active.poll) ∨
      (t.ps.phase = .waiting ∧ t.ps.position = none ∧ t.ti.exchange = s.ti.exchange ∧ t.ru = s.ru)) ∧
    (t.si.forces = before.forces ∧ ∀ k, t.si.readings.get k = (before.readings.get k).map fun r =>
        if r.fresh = 0 then r
        else if r.fresh = 1 then { r with fresh := 0, quality := .stale }
        else { r with fresh := r.fresh - 1 })) ∧
  (∀ s : State, s.tb.pendingCommit = none →
    let begun := s.setPs { s.ps with cycle := s.ps.cycle + 1, phase := .walking, position := none }
    cycleStart s = (countDown begun).setPs { begun.ps with timer := .running s.tb.active.general.cyclePeriod }) ∧
  (∀ s : State, Keyed.wf s.si.readings →
    ∃ lost : List (Nat × Quality),
      (∀ k q, (k, q) ∈ lost ↔ q = .stale ∧ ∃ r, s.si.readings.get k = some r ∧ r.fresh = 1) ∧
      (lost.map fun e => e.1).Pairwise (· < ·) ∧
      countDown s = pairNotice lost [] (s.setSi { s.si with readings := (countDown s).si.readings }))

/-- The poll frame (R1, R2, R6, R195): its bytes, with the codes of POLL and RELAY in the control byte (R194); its bits, each
byte as a start bit, eight data bits with the least significant first and a stop bit, the same on both lines from the frame's
start to its end, and nothing on a line that is not driven; and the direction controls over it. The levels of the bits are DEDUCED and PRESUMED
(notes/assumptions/24.md). That a frame not due, or not being sent, changes nothing is the model's choice
(notes/assumptions/2.md). -/
def Obligations.PollFrameIsSent : Prop :=
  (PollKind.poll.code = 1 ∧ PollKind.relay.code = 2) ∧
  (∀ x : Exchange, x.frameBytes =
    let body := [byte x.node, byte (x.kind.code + if x.toggle then 128 else 0), byte x.payload.length] ++ x.payload
    [0xA5#8] ++ body ++ [(check16 body).extractLsb' 8 8, (check16 body).extractLsb' 0 8]) ∧
  (∀ (s : State) (l : Line),
    let driving := match l with
      | .a => s.ti.dirA
      | .b => s.ti.dirB
    (∀ x, s.ti.exchange = some x → x.phase = .sending → driving = true → s.sentOn l =
      x.frameBytes.flatMap fun b => [false] ++ (List.range 8).map (fun k => b.getLsbD k) ++ [true]) ∧
    (driving = false ∨ (∀ x, s.ti.exchange = some x → x.phase ≠ .sending) → s.sentOn l = [])) ∧
  (∀ (s : State) (x : Exchange), s.live = true → s.ti.exchange = some x →
    (x.phase = .due → exec .trunkFrameSend s = .next (s.setTi { s.ti with
      dirA := true, dirB := true, exchange := some { x with phase := .sending } })) ∧
    (x.phase = .sending → exec .trunkFrameEnd s = .next (s.setTi { s.ti with
      dirA := false, dirB := false, exchange := some { x with phase := .listening } })) ∧
    (x.phase ≠ .due → exec .trunkFrameSend s = .next s) ∧
    (x.phase ≠ .sending → exec .trunkFrameEnd s = .next s)) ∧
  (∀ s : State, s.ti.exchange = none → exec .trunkFrameSend s = .next s ∧ exec .trunkFrameEnd s = .next s)

/-- Lines conclude (R7 to R9): the end of a frame, a gap and the reply timeout give a line its outcome once; the exchange
completes when both lines have concluded, and until then only the exchange changes; without an exchange whose reply is
awaited, activity is disregarded (R1). What a line shows is graded as its receiver takes it from its samples (R6). The
operands, the marking of activity and the second expiry are the model's choice (notes/assumptions/1.md, 2.md and 17.md). -/
def Obligations.LinesConclude : Prop :=
  (∀ (c : Conclusion) (node : Nat) (shown : List LineActivity) (sight : TimeoutSight),
    (LineState.concluded c).hear node shown = .concluded c ∧ (LineState.concluded c).gap = .concluded c ∧
    (LineState.concluded c).timeout sight = .concluded c) ∧
  (∀ (seen : Bool) (node : Nat) (shown : List LineActivity),
    let st := LineState.listening seen
    (∀ c, gradeLine node seen shown = .ended c → st.hear node shown = .concluded c) ∧
    (gradeLine node seen shown = .unfinished → st.hear node shown = .started) ∧
    (gradeLine node seen shown = .notStarted → st.hear node shown = .listening (seen || decide (shown ≠ []))) ∧
    st.gap = .concluded .length) ∧
  (∀ (node : Nat) (shown : List LineActivity),
    (∀ c, gradeLine node false shown = .ended c → LineState.started.hear node shown = .concluded c) ∧
    ((∀ c, gradeLine node false shown ≠ .ended c) → LineState.started.hear node shown = .started) ∧
    LineState.started.gap = .concluded .length) ∧
  (∀ seen : Bool,
    (LineState.listening seen).timeout .quiet = .concluded (if seen then .collision else .silent) ∧
    (LineState.listening seen).timeout .activity = .concluded .collision ∧
    (LineState.listening seen).timeout .started = .started ∧
    (∀ sight, LineState.started.timeout sight = .started)) ∧
  (∀ (s : State) (x : Exchange), s.live = true → s.ti.exchange = some x → x.phase = .listening →
    let settled : Exchange → State := fun y =>
      match y.lineA, y.lineB with
      | .concluded a, .concluded b => continueWalk (completeExchange y a b s)
      | _, _ => s.setTi { s.ti with exchange := some y }
    (∀ shown,
      let heard := shown.map receivedActivity
      exec (.lineFrameEnds .a shown) s = .next (settled { x with lineA := x.lineA.hear x.node heard }) ∧
      exec (.lineFrameEnds .b shown) s = .next (settled { x with lineB := x.lineB.hear x.node heard })) ∧
    exec (.lineFrameGap .a) s = .next (settled { x with lineA := x.lineA.gap }) ∧
    exec (.lineFrameGap .b) s = .next (settled { x with lineB := x.lineB.gap }) ∧
    (∀ a b, x.timedOut = false → exec (.replyTimeout a b) s = .next (settled
      { x with timedOut := true, lineA := x.lineA.timeout a, lineB := x.lineB.timeout b })) ∧
    (∀ a b, x.timedOut = true → exec (.replyTimeout a b) s = .next (settled x))) ∧
  (∀ s : State, (∀ x, s.ti.exchange = some x → x.phase ≠ .listening) → ∀ l shown a b,
    exec (.lineFrameEnds l shown) s = .next s ∧ exec (.lineFrameGap l) s = .next s ∧
    exec (.replyTimeout a b) s = .next s)

/-- An exchange's completion (R8, R11, R14, R18, R19, R43, R155 to R157): for a POLL, the node's record is updated and Sample
Intake takes the notice; for a RELAY, the relay in flight becomes the newest result and nothing else changes. The intake
event gives the Pair Evaluator its lost list and its updated list (R51), and that drops the judged pairs that use a lost
channel, then evaluates those whose surface is updated, each step in ascending pair number with a zone notice after each
pair it changes (R89, R90, R102, R105). -/
def Obligations.ExchangeCompletes : Prop :=
  ∀ (s : State) (x : Exchange) (a b : Conclusion),
    (∀ r, x.kind = .poll → s.ti.nodes.get x.node = some r →
      let taken := takeReply x.acceptMarked r.activeLine a b
      let notice : Notice :=
        { node := x.node, line := taken.map fun y => y.1, marked := taken.elim false fun y => y.2.1
          taken := match taken with
            | none => .nothing
            | some (_, _, .data t records) =>
              if t = r.expectToggle then .newBlock (records.filterMap fun y =>
                if y.slot ≤ 3 ∧ y.status ≤ 2 then some
                  { slot := y.slot
                    status := if y.status = 0 then .ok else if y.status = 1 then .sensorFault else .warming
                    raw := y.raw }
                else none)
              else .outOfStep
            | some (_, _, .empty) => .empty
            | some (_, _, .fault code) => .fault code
            | some (_, _, .answer _) => .answer }
      completeExchange x a b s = intakeEvent notice (s.setTi { s.ti with
        exchange := none
        nodes := s.ti.nodes.modify x.node fun r => r.complete s.tb.active.general x.acceptMarked a b })) ∧
    (∀ q, x.kind = .relay → s.ru.inFlight = some q →
      let preferred := (s.ti.nodes.get x.node).elim Line.a fun r => r.activeLine
      let taken := takeReply false preferred a b
      let result : RelayResult :=
        { tag := q.tag, node := q.node
          outcome := match taken with
            | some (_, _, .answer _) => .answered
            | some (_, _, .fault _) => .nodeFault
            | _ => .noAnswer
          replyKind := taken.map fun y => y.2.2.kind, line := taken.map fun y => y.1
          outcomeA := a.outcome, outcomeB := b.outcome
          faultCode := match taken with
            | some (_, _, .fault code) => some code
            | _ => none
          payload := match taken with
            | some (_, _, .answer bytes) => bytes
            | _ => []
          completionCycle := s.ps.cycle }
      completeExchange x a b s = (s.setTi { s.ti with exchange := none }).setRu
        { s.ru with inFlight := none, results := s.ru.results ++ [result] }) ∧
    (∀ accept preferred, takeReply accept preferred a b =
      match (pickLine preferred a b).usable accept, (pickLine (otherLine preferred) a b).usable accept with
      | some (m, r), _ => some (preferred, m, r)
      | none, some (m, r) => some (otherLine preferred, m, r)
      | none, none => none) ∧
    (∀ n : Notice, s.tb.active.installable →
      let after := (intakeEvent n s).si.readings
      ∃ (lost : List (Nat × Quality)) (updated : List Nat),
        (∀ k q, (k, q) ∈ lost ↔ ∃ row r r', s.tb.active.probe.get k = some row ∧ row.node = n.node ∧
          s.si.readings.get k = some r ∧ after.get k = some r' ∧ r.quality.usable = true ∧ r'.quality.usable = false ∧
          q = r'.quality) ∧
        (∀ k, k ∈ updated ↔ ∃ row r', s.tb.active.probe.get k = some row ∧ row.node = n.node ∧ row.kind = .surfaceTemp ∧
          after.get k = some r' ∧ r'.quality.usable = true ∧
          ((∃ samples, n.taken = .newBlock samples ∧ ∃ y ∈ samples, y.slot = row.slot ∧ y.status = .ok) ∨
            ∃ v, s.si.forces.get k = some { value := v, kind := .pin })) ∧
        (lost.map fun e => e.1).Pairwise (· < ·) ∧ updated.Pairwise (· < ·) ∧
        intakeEvent n s = pairNotice lost updated (s.setSi { s.si with readings := after })) ∧
    (∀ (lost : List (Nat × Quality)) (updated : List Nat),
      pairNotice lost updated s =
        s.tb.active.pair.foldl (evaluatePair updated) (s.tb.active.pair.foldl (dropLost lost) s) ∧
      ∀ (p : Nat) (row : PairRow),
        let written : PairRecord → State := fun r => zoneNotice row.zone (s.setPe { s.pe with pairs := s.pe.pairs.put p r })
        let first : Option Quality :=
          match lost.lookup row.airT, lost.lookup row.airRh, lost.lookup row.surface with
          | some q, _, _ => some q
          | none, some q, _ => some q
          | none, none, q => q
        (∀ q r l, first = some q → q = .fault ∨ q = .stale → s.pe.pairs.get p = some r → r.state = .judged l →
          dropLost lost s (p, row) = written
            { r with state := .unknown (if q = .fault then .inputFault else .inputStale)
                     history := [], riseRun := 0, fallRun := 0 }) ∧
        (first = none ∨ (∀ r l, s.pe.pairs.get p = some r → r.state ≠ .judged l) → dropLost lost s (p, row) = s) ∧
        (∀ r, row.surface ∈ updated → s.pe.pairs.get p = some r →
          evaluatePair updated s (p, row) = written (evaluated s row r)) ∧
        (row.surface ∉ updated ∨ s.pe.pairs.get p = none → evaluatePair updated s (p, row) = s))

/-! ### Events of the uplink line -/

/-- The uplink line's events (R162, R166, R167, R173, R176, R177): each moves the receiver from the states it can arise
in, a defect is counted once, a line break abandons a load sequence and breaks a summary sequence, and in every other
receiver state nothing changes. The model's choices: events that cannot arise (notes/assumptions/2.md), RECEIVING entered
and left inside the step that brings a frame (notes/assumptions/6.md), that the first response sent while a restart is
pending is that of the RESTART (notes/assumptions/9.md), the response dropped once it is sent (notes/assumptions/13.md),
frames under the wrong command (notes/assumptions/14.md) and payloads above 240 bytes (notes/assumptions/16.md). -/
def Obligations.UplinkLineEvents : Prop :=
  ∀ s : State, s.live = true →
    let moved : Receiver → State := fun r => s.setUi { s.ui with receiver := r }
    let counted : State := s.setUi { s.ui with
      receiver := .waitIdle
      errors := min 127 (s.ui.errors + 1)
      overflow := s.ui.overflow || decide (127 ≤ s.ui.errors) }
    let takes : Prop := s.ui.receiver = .ready ∨ s.ui.receiver = .receiving
    (s.ui.receiver = .waitIdle → exec .uplinkIdleSeen s = .next (moved .ready)) ∧
    (s.ui.receiver ≠ .waitIdle → exec .uplinkIdleSeen s = .next s) ∧
    (s.ui.receiver = .other → exec .otherStationDone s = .next (moved .waitIdle)) ∧
    (s.ui.receiver ≠ .other → exec .otherStationDone s = .next s) ∧
    (takes → exec .uplinkFrameGap s = .next counted ∧ (∀ d, exec (.uplinkFrameDefect d) s = .next counted)) ∧
    (¬ takes → exec .uplinkFrameGap s = .next s ∧ (∀ d, exec (.uplinkFrameDefect d) s = .next s)) ∧
    (∀ a c p k, takes → 240 < p.length ∨ k ≠ check16 (a :: c :: byte p.length :: p) →
      exec (.uplinkCheckFail a c p k) s = .next counted) ∧
    (∀ a c p, takes → p.length ≤ 240 → a.toNat ≠ s.tb.active.general.uplinkAddress →
      exec (.frameForOtherStation a c p) s = .next (moved .other)) ∧
    (∀ a c p, takes → p.length ≤ 240 → a.toNat = s.tb.active.general.uplinkAddress → Request.ofCode c = none →
      exec (.unknownRequestCode a c p) s = .next (answeredWith a c .badRequest [] s)) ∧
    (∀ a c p, takes → 240 < p.length → exec (.frameForOtherStation a c p) s = .next counted) ∧
    (∀ a c p, exec (.unknownRequestCode a c p) s = exec (.frameForOtherStation a c p) s) ∧
    (∀ a c p, p.length ≤ 240 → exec (.uplinkCheckFail a c p (check16 (a :: c :: byte p.length :: p))) s =
      exec (.frameForOtherStation a c p) s) ∧
    (∀ a c p k, ¬ takes → exec (.uplinkCheckFail a c p k) s = .next s ∧
      exec (.frameForOtherStation a c p) s = .next s ∧ exec (.unknownRequestCode a c p) s = .next s) ∧
    (s.ui.receiver = .responding → s.ui.response.isSome = true →
      exec .responseSend s = .next (s.setUi { s.ui with dir := true })) ∧
    (s.ui.receiver = .responding → s.ui.dir = true →
      exec .responseSent s = .next ((s.setUi { s.ui with receiver := .waitIdle, response := none, dir := false }).setMc
        { s.mc with restartAnswered := s.mc.restartPending })) ∧
    (s.ui.receiver ≠ .responding → exec .responseSend s = .next s ∧ exec .responseSent s = .next s) ∧
    (∀ bs, s.ui.receiver = .waitIdle ∨ s.ui.receiver = .other → exec (.breakCharacter bs) s =
      .next (s.setUi { s.ui with receiver := .space, heldFrame := none })) ∧
    (∀ bs, takes → exec (.breakCharacter bs) s =
      .next (s.setUi { s.ui with receiver := .space, heldFrame := some bs })) ∧
    (∀ bs, s.ui.receiver ∈ [Receiver.off, .space, .broken, .responding] → exec (.breakCharacter bs) s = .next s) ∧
    (s.ui.receiver = .space → s.ui.heldFrame ≠ none → exec .spaceEndsEarly s =
      .next (counted.setUi { counted.ui with heldFrame := none })) ∧
    (s.ui.receiver = .space → s.ui.heldFrame = none → exec .spaceEndsEarly s = .next (moved .waitIdle)) ∧
    (s.ui.receiver = .space → exec .lineBreak s = .next (((s.setTb s.tb.abandon).setZm (if s.zm.summary.isOpen = true then
        { s.zm with
          summary := { isOpen := false, nextRecord := 0, held := 0, broken := true }
          bank := if 0 < s.zm.summary.held then { publicationCycle := some s.ps.cycle, records := s.zm.zones }
            else s.zm.bank }
        else s.zm)).setUi { s.ui with receiver := .broken, heldFrame := none })) ∧
    (s.ui.receiver ≠ .space → exec .spaceEndsEarly s = .next s ∧ exec .lineBreak s = .next s) ∧
    (s.ui.receiver = .broken → exec .breakEnd s = .next (moved .waitIdle)) ∧
    (s.ui.receiver ≠ .broken → exec .breakEnd s = .next s)

/-- A request's frame (R163, R166 to R169, R172, R196): it is not seen unless the receiver takes frames, ignored when it
carries another address, a defect when it is too long, answered BAD_LENGTH when its length does not fit the request, and
handled otherwise; the response carries the attention flags (R172) and has the bytes of R196 and the bits of R162. The code
and the least and greatest payload length of each request are those of R196. The model's choices: notes/assumptions/2.md,
6.md, 14.md, 16.md and 24.md. -/
def Obligations.RequestFrames : Prop :=
  (∀ (r : Request) (code : Byte) (least greatest : Nat), (r, code, least, greatest) ∈
    [(Request.status, (0x01 : Byte), 0, 0), (.counters, 0x02, 0, 0), (.ident, 0x03, 0, 0), (.mode, 0x04, 1, 1),
      (.save, 0x05, 0, 0), (.restart, 0x06, 0, 0), (.lineReport, 0x10, 2, 2), (.skip, 0x11, 2, 2),
      (.readReadings, 0x20, 2, 2), (.forceSet, 0x21, 4, 4), (.forceClear, 0x22, 1, 1), (.forceList, 0x23, 0, 0),
      (.readPairs, 0x30, 2, 2), (.summaryOpen, 0x40, 0, 0), (.summaryNext, 0x41, 0, 0), (.summaryClose, 0x42, 0, 0),
      (.takeAlerts, 0x43, 0, 0), (.loadOpen, 0x50, 2, 2), (.loadRows, 0x51, 0, 240), (.loadClose, 0x52, 0, 0),
      (.loadAbandon, 0x53, 0, 0), (.commit, 0x54, 0, 0), (.readTable, 0x55, 4, 4), (.relaySend, 0x60, 3, 240),
      (.relayCollect, 0x61, 2, 2)] ↔ r.code = code ∧ r.lengths = (least, greatest)) ∧
  ∀ (r : Request) (a : Byte) (p : List Byte) (s : State),
    (s.live = false ∨ (s.ui.receiver ≠ .ready ∧ s.ui.receiver ≠ .receiving) → exec (r.command a p) s = .next s) ∧
    (s.live = true → s.ui.receiver = .ready ∨ s.ui.receiver = .receiving → p.length ≤ 240 →
      a.toNat ≠ s.tb.active.general.uplinkAddress →
      exec (r.command a p) s = .next (s.setUi { s.ui with receiver := .other })) ∧
    (s.live = true → s.ui.receiver = .ready ∨ s.ui.receiver = .receiving → 240 < p.length →
      exec (r.command a p) s = .next (s.setUi { s.ui with
        receiver := .waitIdle
        errors := min 127 (s.ui.errors + 1)
        overflow := s.ui.overflow || decide (127 ≤ s.ui.errors) })) ∧
    (Heard s a → p.length ≤ 240 → p.length < r.lengths.1 ∨ r.lengths.2 < p.length → r ≠ .mode →
      exec (r.command a p) s = .next (answeredWith a r.code .badLength [] s)) ∧
    (Heard s a → p.length ≤ 240 → exec (r.command a p) s = exec (.frameForOtherStation a r.code p) s) ∧
    Request.ofCode r.code = some r ∧
    (∀ (code : Byte) (status : Status) (t : State), (answeredWith a code status p t).ui.response = some
      { address := a, code := code, status := status, payload := p
        attention :=
          { alerts := decide (t.zm.alerts ≠ []), results := decide (t.ru.results ≠ []), loadOpen := t.tb.load.isSome
            summaryOpen := t.zm.summary.isOpen, commitPending := t.tb.pendingCommit.isSome
            saving := t.cs.saveWrite.isSome, mode := t.mc.mode } }) ∧
    (∀ x : Response, x.bytes =
      let flag := fun (k : Nat) (b : Bool) => if b = true then 2 ^ k else 0
      let f := x.attention
      let body := [x.address, x.code, byte x.status.code,
        byte (flag 0 f.alerts + flag 1 f.results + flag 2 f.loadOpen + flag 3 f.summaryOpen + flag 4 f.commitPending
          + flag 5 f.saving), byte f.mode.code, byte x.payload.length] ++ x.payload
      body ++ [(check16 body).extractLsb' 8 8, (check16 body).extractLsb' 0 8]) ∧
    (∀ x : Response, x.levels =
      x.bytes.flatMap fun b => [false] ++ (List.range 8).map (fun k => b.getLsbD k) ++ [true])

/-! ### Requests -/

/-- The requests that read (R20, R56, R65, R106, R149, R174, R191, R193 to R199): what each returns, when it is refused, and
that nothing changes but the receiver and the response. Then the layouts of the reading, Node State and Pair Status records
and of a READ_TABLE entry, byte by byte, and the codes of R194. The identity descriptor is the same always, and the check
figure of R193 is as it says. -/
def Obligations.ReadsChangeNothing : Prop :=
  (∀ (s : State) (a : Byte), Heard s a →
    exec (.status a []) s = .next (answeredWith a 0x01 .ok
      ([byte s.mc.mode.code] ++ wordBytes s.ps.cycle ++ [byte s.mc.reason.code, byte s.cs.state.code]
        ++ natBytes s.cs.saveCount ++ [byte s.ru.queue.length, byte s.tb.staged.readySet, byte s.ps.overruns]) s) ∧
    exec (.ident a []) s = .next (answeredWith a 0x03 .ok
      [0x01, 0x05, 0x57, 0x44, 0x0D, 0x40, 0x01, 0x02, 0x07, 0x60, 0x80, 0x40, 0x20, 0x10, 0x08, 0x08, 0x03, 0x01, 0x01,
        0xFF, 0x02, 0xAD, 0x90] s) ∧
    exec (.forceList a []) s = .next (answeredWith a 0x23 .ok
      (byte s.si.forces.length :: s.si.forces.flatMap fun e => [byte e.1, byte e.2.kind.code] ++ intBytes e.2.value) s) ∧
    (∀ first count : Byte, 1 ≤ first.toNat → first.toNat ≤ 126 → 1 ≤ count.toNat → count.toNat ≤ 8 →
      let above := s.ti.nodes.filter fun e => decide (first.toNat ≤ e.1)
      exec (.lineReport a [first, count]) s = .next (answeredWith a 0x10 .ok
        (byte ((above.take count.toNat).length + if count.toNat < above.length then 128 else 0)
          :: (above.take count.toNat).flatMap fun e => nodeRecordBytes e.1 e.2) s)) ∧
    (∀ first count : Byte,
      first.toNat < 1 ∨ 126 < first.toNat ∨ count.toNat < 1 ∨ 8 < count.toNat →
      exec (.lineReport a [first, count]) s = .next (answeredWith a 0x10 .badField [] s)) ∧
    (∀ first count : Byte, 1 ≤ count.toNat → count.toNat ≤ 16 → first.toNat + count.toNat ≤ 128 →
      exec (.readReadings a [first, count]) s = .next (answeredWith a 0x20 .ok
        ((List.range' first.toNat count.toNat).flatMap (readingRecord s)) s)) ∧
    (∀ first count : Byte, count.toNat < 1 ∨ 16 < count.toNat ∨ 128 < first.toNat + count.toNat →
      exec (.readReadings a [first, count]) s = .next (answeredWith a 0x20 .badField [] s)) ∧
    (∀ first count : Byte, 1 ≤ count.toNat → count.toNat ≤ 8 → first.toNat + count.toNat ≤ 64 →
      exec (.readPairs a [first, count]) s = .next (answeredWith a 0x30 .ok
        ((List.range' first.toNat count.toNat).flatMap (pairRecordBytes s)) s)) ∧
    (∀ first count : Byte, count.toNat < 1 ∨ 8 < count.toNat ∨ 64 < first.toNat + count.toNat →
      exec (.readPairs a [first, count]) s = .next (answeredWith a 0x30 .badField [] s)) ∧
    (∀ (t : TableId) (first count : Byte), 1 ≤ count.toNat → count.toNat ≤ 8 → first.toNat + count.toNat ≤ t.capacity →
      exec (.readTable a [byte t.code, 0, first, count]) s = .next (answeredWith a 0x55 .ok
        (byte (s.tb.staged.copy t).code
          :: (List.range' first.toNat count.toNat).flatMap (tableEntry (s.tb.active.copy t))) s) ∧
      exec (.readTable a [byte t.code, 1, first, count]) s = .next (answeredWith a 0x55 .ok
        (byte (s.tb.staged.copy t).code :: match s.tb.staged.copy t, s.tb.load with
          | .ready rows, _ => (List.range' first.toNat count.toNat).flatMap (tableEntry rows)
          | .opened, some l => (List.range' first.toNat count.toNat).flatMap (tableEntry l.working)
          | _, _ => []) s)) ∧
    (∀ table copy first count : Byte,
      4 < table.toNat ∨ 1 < copy.toNat ∨ count.toNat < 1 ∨ 8 < count.toNat ∨
        (∃ t : TableId, table = byte t.code ∧ t.capacity < first.toNat + count.toNat) →
      exec (.readTable a [table, copy, first, count]) s = .next (answeredWith a 0x55 .badField [] s))) ∧
  (∀ (s : State) (k : Nat),
    let two : Int → List Byte := fun i => [byte (i % 65536 / 256).toNat, byte (i % 256).toNat]
    let flag := fun (n : Nat) (b : Bool) => if b = true then 2 ^ n else 0
    let line : Option Line → Byte := fun l =>
      match l with
      | some .a => 0
      | some .b => 1
      | none => 0xFF
    let kind : ProbeKind → Byte := fun k =>
      match k with
      | .airTemp => 0
      | .airRh => 1
      | .surfaceTemp => 2
    let quality : Quality → Byte := fun q =>
      match q with
      | .none => 0
      | .good => 1
      | .clamped => 2
      | .forced => 3
      | .fault => 4
      | .stale => 5
    let outcome : Option LineOutcome → Nat := fun o =>
      match o with
      | some .silent => 0
      | some .collision => 1
      | some .length => 2
      | some .check => 3
      | some .stray => 4
      | some .marked => 5
      | some .good => 6
      | none => 15
    let reply : Option ReplyKind → Byte := fun r =>
      match r with
      | some .data => 1
      | some .empty => 2
      | some .fault => 3
      | some .answer => 4
      | none => 0xFF
    let risk : RiskState → Nat × Nat := fun r =>
      match r with
      | .unknown .new => (0, 0)
      | .unknown .inputNone => (0, 1)
      | .unknown .inputFault => (0, 2)
      | .unknown .inputStale => (0, 3)
      | .unknown .skew => (0, 4)
      | .unknown .airRange => (0, 5)
      | .unknown .stopped => (0, 6)
      | .judged .clear => (1, 7)
      | .judged .watch => (2, 7)
      | .judged .near => (3, 7)
      | .judged .wet => (4, 7)
    (s.tb.active.probe.get k = none → readingRecord s k = [byte k, 0xFF, 0, 0, 0, 0, 0, 0, 0, 0]) ∧
    (∀ row r, s.tb.active.probe.get k = some row → s.si.readings.get k = some r → readingRecord s k =
      [byte k, kind row.kind, quality r.quality, byte r.fresh] ++ two (r.value.getD 0)
        ++ two (r.stamp.elim 0 fun c => (c.toNat : Int)) ++ [line r.line, if r.marked then 1 else 0]) ∧
    (∀ r : NodeRecord, nodeRecordBytes k r =
      [byte k, byte (flag 0 r.quarantined + flag 1 r.expectToggle + flag 2 (decide (r.activeLine = .b))),
        byte r.skipRemaining, byte (16 * r.otherOnly + r.failRun), byte (16 * outcome r.lastOutcomeA + outcome r.lastOutcomeB),
        reply r.lastReplyKind, byte (r.lastFaultCode.getD 0)]
        ++ two r.failTotalA ++ two r.failTotalB ++ two r.outOfStepTotal) ∧
    (s.tb.active.pair.get k = none → pairRecordBytes s k = [0]) ∧
    (∀ row r, s.tb.active.pair.get k = some row → s.pe.pairs.get k = some r → pairRecordBytes s k =
      [byte (8 * row.zone + 4 + flag 1 r.trend + flag 0 r.dewLow), byte (32 * (risk r.state).1 + 4 * (risk r.state).2),
        byte (flag 7 r.inputs.isSome + flag 6 r.lastM.isSome + flag 5 r.lastMp.isSome + flag 4 r.lastEval.isSome
          + r.history.length), byte (16 * r.riseRun + r.fallRun)]
        ++ r.lastEval.elim [] (fun c => two c.toNat)
        ++ r.inputs.elim [] (fun x => two x.ta ++ two x.rh ++ two x.ts)
        ++ r.lastMp.elim [] two ++ (if r.history = [] then r.lastM.elim [] two else []) ++ r.history.flatMap two) ∧
    (∀ rows : TableRows,
      (∀ bytes, rows.rowBytes k = some bytes → tableEntry rows k = 1 :: byte k :: bytes) ∧
      (rows.rowBytes k = none → tableEntry rows k = 0 :: byte k :: List.replicate rows.table.rowSize 0)) ∧
    (∀ c : StagedTables, c.readySet = flag 0 (c.copy .poll).isReady + flag 1 (c.copy .probe).isReady
      + flag 2 (c.copy .pair).isReady + flag 3 (c.copy .zone).isReady + flag 4 (c.copy .general).isReady)) ∧
  ([Mode.idle, .survey, .stopping].map Mode.code = [1, 2, 3] ∧ [StartReason.power, .restart].map StartReason.code = [0, 1] ∧
    [StoreStatus.empty, .valid, .damaged].map StoreStatus.code = [0, 1, 2] ∧
    [ForceKind.substitute, .pin].map ForceKind.code = [0, 1] ∧ [LoadMethod.replace, .patch].map LoadMethod.code = [0, 1] ∧
    [TableId.poll, .probe, .pair, .zone, .general].map TableId.code = [0, 1, 2, 3, 4] ∧
    (∀ rows : TableRows, [Staged.none, .opened, .ready rows].map Staged.code = [0, 1, 2]) ∧
    [Status.ok, .badRequest, .badLength, .badField, .busy, .full, .notFound, .wrongMode, .notOpen, .broken, .nothingStaged,
      .checkFailed, .noSlot].map Status.code = List.range 13) ∧
  check16 [0x31, 0x32, 0x33, 0x34, 0x35, 0x36, 0x37, 0x38, 0x39] = 0x29B1#16

/-- SKIP, FORCE_SET and FORCE_CLEAR (R34, R58 to R60, R63, R196): the checks in their order, and what an accepted request
changes: a node's skip_remaining, or one entry of the Force List, and no reading. -/
def Obligations.SkipAndForces : Prop :=
  ∀ (s : State) (a : Byte), Heard s a →
    (∀ node n : Byte, node.toNat < 1 ∨ 126 < node.toNat →
      exec (.skip a [node, n]) s = .next (answeredWith a 0x11 .badField [] s)) ∧
    (∀ node n : Byte, 1 ≤ node.toNat → node.toNat ≤ 126 → s.ti.nodes.get node.toNat = none →
      exec (.skip a [node, n]) s = .next (answeredWith a 0x11 .notFound [] s)) ∧
    (∀ (node n : Byte) (r : NodeRecord), 1 ≤ node.toNat → node.toNat ≤ 126 → s.ti.nodes.get node.toNat = some r →
      exec (.skip a [node, n]) s = .next (answeredWith a 0x11 .ok [byte r.skipRemaining] (s.setTi { s.ti with
        nodes := s.ti.nodes.put node.toNat { r with skipRemaining := n.toNat } }))) ∧
    (∀ k kind hi lo : Byte, 128 ≤ k.toNat ∨ 1 < kind.toNat →
      exec (.forceSet a [k, kind, hi, lo]) s = .next (answeredWith a 0x21 .badField [] s)) ∧
    (∀ k kind hi lo : Byte, k.toNat < 128 → kind.toNat ≤ 1 → s.tb.active.probe.get k.toNat = none →
      exec (.forceSet a [k, kind, hi, lo]) s = .next (answeredWith a 0x21 .notFound [] s)) ∧
    (∀ (k kind hi lo : Byte) (row : ProbeRow), k.toNat < 128 → kind.toNat ≤ 1 →
      s.tb.active.probe.get k.toNat = some row →
      let value : Int := (hi ++ lo : BitVec 16).toInt
      let entry : Force := { value := value, kind := if kind.toNat = 0 then .substitute else .pin }
      (value < row.kind.lowEnd ∨ row.kind.highEnd < value →
        exec (.forceSet a [k, kind, hi, lo]) s = .next (answeredWith a 0x21 .badField [] s)) ∧
      (row.kind.lowEnd ≤ value → value ≤ row.kind.highEnd →
        (s.si.forces.get k.toNat = none → 16 ≤ s.si.forces.length →
          exec (.forceSet a [k, kind, hi, lo]) s = .next (answeredWith a 0x21 .full [] s)) ∧
        (s.si.forces.get k.toNat = none → s.si.forces.length < 16 →
          exec (.forceSet a [k, kind, hi, lo]) s = .next (answeredWith a 0x21 .ok
            [byte (s.si.forces.length + 1), 0, 0, 0, 0]
            (s.setSi { s.si with forces := s.si.forces.put k.toNat entry }))) ∧
        (∀ old, Keyed.wf s.si.forces → s.si.forces.get k.toNat = some old →
          exec (.forceSet a [k, kind, hi, lo]) s = .next (answeredWith a 0x21 .ok
            ([byte s.si.forces.length, 1, byte old.kind.code] ++ intBytes old.value)
            (s.setSi { s.si with forces := s.si.forces.put k.toNat entry }))))) ∧
    (∀ k : Byte, 128 ≤ k.toNat → k ≠ 0xFF →
      exec (.forceClear a [k]) s = .next (answeredWith a 0x22 .badField [] s)) ∧
    (∀ k : Byte, k.toNat < 128 → s.si.forces.get k.toNat = none →
      exec (.forceClear a [k]) s = .next (answeredWith a 0x22 .notFound [] s)) ∧
    (∀ (k : Byte) (old : Force), k.toNat < 128 → s.si.forces.get k.toNat = some old →
      exec (.forceClear a [k]) s = .next (answeredWith a 0x22 .ok (intBytes old.value ++ [byte old.kind.code])
        (s.setSi { s.si with forces := s.si.forces.del k.toNat }))) ∧
    exec (.forceClear a [0xFF]) s = .next (answeredWith a 0x22 .ok [byte s.si.forces.length]
      (s.setSi { s.si with forces := [] }))

/-- SUMMARY_OPEN, SUMMARY_NEXT, SUMMARY_CLOSE and TAKE_ALERTS (R114, R122 to R124, R126): what each returns and what it leaves
of the sequence, the bank and the Alert Queue; and the layouts of a batch with its summary records and of an alert entry,
byte by byte (R198). -/
def Obligations.SummaryAndAlerts : Prop :=
  (let two : Int → List Byte := fun i => [byte (i % 65536 / 256).toNat, byte (i % 256).toNat]
    let flag := fun (n : Nat) (b : Bool) => if b = true then 2 ^ n else 0
    let level : Level → Bool → Byte := fun l blind =>
      byte ((match l with
        | .clear => 1
        | .watch => 2
        | .near => 3
        | .wet => 4) + flag 7 blind)
    let summary : Nat × ZoneRecord → List Byte := fun e =>
      [byte e.1, level e.2.level e.2.blind, byte e.2.unknownCount, byte e.2.clearCount, byte e.2.watchCount,
        byte e.2.nearCount, byte e.2.wetCount]
        ++ e.2.worst.elim [0, 0, 0xFF] (fun w => two w.margin ++ [byte w.pair])
    (∀ (bank : Bank) (position held : Nat),
      let batch := (bank.records.drop position).take 8
      summaryPayload bank position held =
        two (bank.publicationCycle.elim 0 fun c => (c.toNat : Int))
          ++ [byte (flag 0 bank.publicationCycle.isSome + flag 1 (decide (bank.records.length ≤ position + 8))),
            byte bank.records.length, byte held, byte batch.length]
          ++ batch.flatMap summary) ∧
    (∀ x : Alert, alertBytes x =
      [byte x.zone, level x.fromLevel x.fromBlind, level x.nowLevel x.nowBlind, byte x.changes]
        ++ two x.firstCycle.toNat ++ two x.lastCycle.toNat)) ∧
  ∀ (s : State) (a : Byte), Heard s a →
    let q := s.zm.summary
    let closedBank : Bank :=
      if 0 < q.held then { publicationCycle := some s.ps.cycle, records := s.zm.zones } else s.zm.bank
    let closed : State := s.setZm { s.zm with
      bank := closedBank, summary := { q with isOpen := false, nextRecord := 0, held := 0 } }
    (q.isOpen = true → exec (.summaryOpen a []) s = .next (answeredWith a 0x40 .busy [] s)) ∧
    (q.isOpen = false → exec (.summaryOpen a []) s = .next (answeredWith a 0x40 .ok (summaryPayload s.zm.bank 0 0)
      (s.setZm { s.zm with summary :=
        { isOpen := decide (8 < s.zm.bank.records.length)
          nextRecord := if 8 < s.zm.bank.records.length then 8 else 0, held := 0, broken := false } }))) ∧
    (q.isOpen = true → q.nextRecord + 8 < s.zm.bank.records.length →
      exec (.summaryNext a []) s = .next (answeredWith a 0x41 .ok (summaryPayload s.zm.bank q.nextRecord q.held)
        (s.setZm { s.zm with summary := { q with nextRecord := q.nextRecord + 8 } }))) ∧
    (q.isOpen = true → s.zm.bank.records.length ≤ q.nextRecord + 8 →
      exec (.summaryNext a []) s =
        .next (answeredWith a 0x41 .ok (summaryPayload s.zm.bank q.nextRecord q.held) closed)) ∧
    (q.isOpen = true → exec (.summaryClose a []) s = .next (answeredWith a 0x42 .ok [] closed)) ∧
    (q.isOpen = false → q.broken = true →
      let told := s.setZm { s.zm with summary := { q with broken := false } }
      exec (.summaryNext a []) s = .next (answeredWith a 0x41 .broken [] told) ∧
      exec (.summaryClose a []) s = .next (answeredWith a 0x42 .broken [] told)) ∧
    (q.isOpen = false → q.broken = false →
      exec (.summaryNext a []) s = .next (answeredWith a 0x41 .notOpen [] s) ∧
      exec (.summaryClose a []) s = .next (answeredWith a 0x42 .notOpen [] s)) ∧
    exec (.takeAlerts a []) s = .next (answeredWith a 0x43 .ok
      (byte (s.zm.alerts.take 8).length :: byte (s.zm.alerts.drop 8).length :: (s.zm.alerts.take 8).flatMap alertBytes)
      (s.setZm { s.zm with alerts := s.zm.alerts.drop 8 }))

/-- LOAD_OPEN, LOAD_ROWS, LOAD_CLOSE, LOAD_ABANDON and LOAD_TIMEOUT (R132 to R138): the checks in their order, what the working
contents start from, what an accepted or refused LOAD_ROWS leaves, and what closing and abandoning leave staged. An entry
is a PUT or a DELETE of the row at its index, and fails when its op is neither, its index lies outside the table, its row is
not well formed, or it deletes GENERAL (R134, R135, R197). That a LOAD_TIMEOUT with no sequence open changes nothing is the
model's choice (notes/assumptions/2.md). -/
def Obligations.LoadRequests : Prop :=
  (∀ (rows : TableRows) (op index : Byte) (row : List Byte),
    let capacity : Nat :=
      match rows with
      | .poll _ => 96
      | .probe _ => 128
      | .pair _ => 64
      | .zone _ => 32
      | .general _ => 1
    (op.toNat ≠ 1 → op.toNat ≠ 2 → rows.applyEntry (op :: index :: row) = none) ∧
    (capacity ≤ index.toNat → rows.applyEntry (op :: index :: row) = none) ∧
    (op.toNat = 1 → index.toNat < capacity → rows.applyEntry (op :: index :: row) =
      match rows with
      | .poll t => (PollRow.ofBytes row).map fun r => .poll (t.put index.toNat r)
      | .probe t => (ProbeRow.ofBytes row).map fun r => .probe (t.put index.toNat r)
      | .pair t => (PairRow.ofBytes row).map fun r => .pair (t.put index.toNat r)
      | .zone t => (ZoneRow.ofBytes row).map fun r => .zone (t.put index.toNat r)
      | .general _ => (GeneralRow.ofBytes row).map fun r => .general r) ∧
    (op.toNat = 2 → index.toNat < capacity → rows.applyEntry (op :: index :: row) =
      match rows with
      | .poll t => some (.poll (t.del index.toNat))
      | .probe t => some (.probe (t.del index.toNat))
      | .pair t => some (.pair (t.del index.toNat))
      | .zone t => some (.zone (t.del index.toNat))
      | .general _ => none)) ∧
  (∀ (α : Type) (t : Keyed α) (i j : Nat) (r : α),
    (t.put i r).get j = (if j = i then some r else t.get j) ∧ (t.del i).get j = if j = i then none else t.get j) ∧
  (∀ tb : TableStore, tb.load = none → tb.abandon = tb) ∧
  (∀ (tb : TableStore) (l : LoadSequence), tb.load = some l →
    tb.abandon = { tb with
      load := none
      staged := match l.prior with
        | none => tb.staged.setNone l.working.table
        | some rows => tb.staged.setReady rows }) ∧
  (∀ s : State, s.live = true → exec .loadTimeout s = .next (s.setTb s.tb.abandon)) ∧
  (∀ (s : State) (a : Byte), Heard s a →
    (∀ table method : Byte, 4 < table.toNat ∨ 1 < method.toNat →
      exec (.loadOpen a [table, method]) s = .next (answeredWith a 0x50 .badField [] s)) ∧
    (∀ (t : TableId) (m : LoadMethod),
      let base := s.tb.abandon
      let rows : TableRows := match m, base.staged.copy t with
        | .replace, _ => t.emptyRows
        | .patch, .ready rows => rows
        | .patch, _ => base.active.copy t
      let prior : Option TableRows := match base.staged.copy t with
        | .ready rows => some rows
        | _ => none
      (s.tb.pendingCommit ≠ none →
        exec (.loadOpen a [byte t.code, byte m.code]) s = .next (answeredWith a 0x50 .busy [] s)) ∧
      (s.tb.pendingCommit = none →
        exec (.loadOpen a [byte t.code, byte m.code]) s = .next (answeredWith a 0x50 .ok
          [byte t.code, byte m.code, byte rows.count]
          (s.setTb { base with load := some { working := rows, prior := prior }, staged := base.staged.setOpened t })))) ∧
    (s.tb.load = none → ∀ p, p.length ≤ 240 →
      exec (.loadRows a p) s = .next (answeredWith a 0x51 .notOpen [] s)) ∧
    (s.tb.load = none →
      exec (.loadClose a []) s = .next (answeredWith a 0x52 .notOpen [] s) ∧
      exec (.loadAbandon a []) s = .next (answeredWith a 0x53 .notOpen [] s)) ∧
    (∀ l, s.tb.load = some l →
      exec (.loadClose a []) s = .next (answeredWith a 0x52 .ok [byte l.working.table.code, byte l.working.count]
        (s.setTb { s.tb with load := none, staged := s.tb.staged.setReady l.working })) ∧
      exec (.loadAbandon a []) s = .next (answeredWith a 0x53 .ok [] (s.setTb s.tb.abandon)) ∧
      (∀ p, p.length ≤ 240 → loadEntries l.working.table p = none →
        exec (.loadRows a p) s = .next (answeredWith a 0x51 .badLength [] s)) ∧
      (∀ p before e after rows, p.length ≤ 240 → loadEntries l.working.table p = some (before ++ e :: after) →
        before.foldlM TableRows.applyEntry l.working = some rows → rows.applyEntry e = none →
        exec (.loadRows a p) s = .next (answeredWith a 0x51 .badField [byte (before.length + 1)] s)) ∧
      (∀ p es rows, p.length ≤ 240 → loadEntries l.working.table p = some es →
        es.foldlM TableRows.applyEntry l.working = some rows →
        exec (.loadRows a p) s = .next (answeredWith a 0x51 .ok [byte rows.count]
          (s.setTb { s.tb with load := some { l with working := rows } })))))

/-- The five cross checks (R141): none fails exactly when no index breaks any of them, and otherwise the outcome is the first
check that fails with the lowest index that breaks it. COMMIT (R140 to R142): the first case that applies of its table, with
what each answers and changes. That a COMMIT while one is pending answers with the READY set as it stands is the model's
choice (notes/assumptions/18.md). -/
def Obligations.CommitDecides : Prop :=
  (∀ c : Tables, Keyed.wf c.poll → Keyed.wf c.probe → Keyed.wf c.pair →
    let polls : Nat → Nat → Prop := fun position node => ∃ timeout accept, c.poll.get position = some (.poll node timeout accept)
    let kindAt : Nat → ProbeKind → Prop := fun channel kind => ∃ row, c.probe.get channel = some row ∧ row.kind = kind
    let breaks : Nat → Nat → Prop := fun check i =>
      (check = 1 ∧ ∃ node, polls i node ∧ ∃ j, j < i ∧ polls j node) ∨
      (check = 2 ∧ ∃ r, c.probe.get i = some r ∧
        ∃ j q, j < i ∧ c.probe.get j = some q ∧ q.node = r.node ∧ q.slot = r.slot) ∨
      (check = 3 ∧ ∃ r, c.probe.get i = some r ∧ ∀ j, ¬ polls j r.node) ∨
      (check = 4 ∧ ∃ r, c.pair.get i = some r ∧
        ¬ (kindAt r.airT .airTemp ∧ kindAt r.airRh .airRh ∧ kindAt r.surface .surfaceTemp)) ∨
      (check = 5 ∧ ∃ r, c.pair.get i = some r ∧ c.zone.get r.zone = none)
    (crossCheck c = none ↔ ∀ check i, ¬ breaks check i) ∧
    (∀ check i, crossCheck c = some (check, i) ↔
      breaks check i ∧ (∀ j, j < i → ¬ breaks check j) ∧ ∀ k j, k < check → ¬ breaks k j)) ∧
  ∀ (s : State) (a : Byte), Heard s a →
    let ready := s.tb.staged.readySet
    let candidate : Tables :=
      { poll := s.tb.staged.poll.rows?.getD s.tb.active.poll, probe := s.tb.staged.probe.rows?.getD s.tb.active.probe
        pair := s.tb.staged.pair.rows?.getD s.tb.active.pair, zone := s.tb.staged.zone.rows?.getD s.tb.active.zone
        general := s.tb.staged.general.rows?.getD s.tb.active.general }
    (s.tb.pendingCommit ≠ none → exec (.commit a []) s = .next (answeredWith a 0x54 .ok [1, byte ready] s)) ∧
    (s.tb.pendingCommit = none →
      (s.cs.saveWrite ≠ none ∨ s.tb.load ≠ none →
        exec (.commit a []) s = .next (answeredWith a 0x54 .busy [] s)) ∧
      (s.cs.saveWrite = none → s.tb.load = none →
        ((∀ t : TableId, (s.tb.staged.copy t).isReady = false) →
          exec (.commit a []) s = .next (answeredWith a 0x54 .nothingStaged [] s)) ∧
        ((∃ t : TableId, (s.tb.staged.copy t).isReady = true) →
          (∀ check index, crossCheck candidate = some (check, index) →
            exec (.commit a []) s = .next (answeredWith a 0x54 .checkFailed [byte check, byte index] s)) ∧
          (crossCheck candidate = none → s.mc.mode = .idle →
            exec (.commit a []) s = .next (answeredWith a 0x54 .ok [0, byte ready] (takeCommit candidate s))) ∧
          (crossCheck candidate = none → s.mc.mode ≠ .idle →
            exec (.commit a []) s = .next (answeredWith a 0x54 .ok [1, byte ready]
              (s.setTb { s.tb with pendingCommit := some candidate }))))))

/-- MODE, RESTART and COUNTERS (R25, R33, R175, R180, R189): what each answers and changes, and the cycle start or the
stop that follows a MODE at once. That what follows a MODE comes in the same step is the model's choice
(notes/assumptions/19.md). -/
def Obligations.ModeRestartCounters : Prop :=
  ∀ (s : State) (a : Byte), Heard s a →
    let kept := answeredWith a 0x04 .ok [byte s.mc.mode.code] s
    let entered : Mode → State := fun m => answeredWith a 0x04 .ok [byte m.code] (s.setMc { s.mc with mode := m })
    let settled : Prop := s.mc.mode = .idle ∨ (s.mc.mode = .survey ∧ s.ps.phase ≠ .halted) ∨
      (s.mc.mode = .stopping ∧ s.ps.phase ≠ .waiting)
    (∀ p : List Byte, settled → p.length ≤ 240 → p.length ≠ 1 →
      exec (.mode a p) s = .next (answeredWith a 0x04 .badLength [] s)) ∧
    (∀ target : Byte, settled → target ≠ 1 → target ≠ 2 →
      exec (.mode a [target]) s = .next (answeredWith a 0x04 .badField [] s)) ∧
    (s.mc.mode = .idle → s.tb.active.poll = [] →
      exec (.mode a [2]) s = .next (answeredWith a 0x04 .wrongMode [] s)) ∧
    (s.mc.mode = .idle → s.tb.active.poll ≠ [] → s.ps.phase = .halted →
      exec (.mode a [2]) s = .next (openCycle (entered .survey))) ∧
    (s.mc.mode = .survey → s.ps.phase ≠ .halted → exec (.mode a [2]) s = .next kept) ∧
    (s.mc.mode = .stopping → s.ps.phase = .walking → exec (.mode a [2]) s = .next (entered .survey)) ∧
    (s.mc.mode = .idle → exec (.mode a [1]) s = .next kept) ∧
    (s.mc.mode = .survey → s.ps.phase = .walking → exec (.mode a [1]) s = .next (entered .stopping)) ∧
    (s.mc.mode = .survey → s.ps.phase = .waiting → exec (.mode a [1]) s = .next (stop (entered .stopping))) ∧
    (s.mc.mode = .stopping → s.ps.phase = .walking → exec (.mode a [1]) s = .next kept) ∧
    exec (.restart a []) s = .next (answeredWith a 0x06 .ok [] (s.setMc { s.mc with restartPending := true })) ∧
    exec (.counters a []) s = .next (answeredWith a 0x02 .ok
      [byte s.ui.errors, if s.ui.overflow then 1 else 0, byte s.ps.overruns]
      ((s.setUi { s.ui with errors := 0, overflow := false }).setPs { s.ps with overruns := 0 }))

/-- RELAY_SEND and RELAY_COLLECT (R151 to R153, R157 to R159): the checks in their order, the request appended at the tail of
the queue, and the result returned and removed, those behind it keeping their order; and the layout of a relay result, byte by
byte (R198). -/
def Obligations.RelayRequests : Prop :=
  (∀ r : RelayResult,
    let outcome : LineOutcome → Nat := fun o =>
      match o with
      | .silent => 0
      | .collision => 1
      | .length => 2
      | .check => 3
      | .stray => 4
      | .marked => 5
      | .good => 6
    relayResultBytes r =
      [byte r.tag, byte r.node,
        match r.outcome with
        | .answered => 0
        | .nodeFault => 1
        | .noAnswer => 2,
        match r.replyKind with
        | some .data => 1
        | some .empty => 2
        | some .fault => 3
        | some .answer => 4
        | none => 0xFF,
        match r.line with
        | some .a => 0
        | some .b => 1
        | none => 0xFF,
        byte (16 * outcome r.outcomeA + outcome r.outcomeB), byte (r.faultCode.getD 0),
        byte (r.completionCycle.toNat / 256), byte (r.completionCycle.toNat % 256), byte r.payload.length] ++ r.payload) ∧
  ∀ (s : State) (a : Byte), Heard s a →
    let queued := fun tag : Nat => ∃ q ∈ s.ru.queue, q.tag = tag
    let flying := fun tag : Nat => ∃ q ∈ s.ru.inFlight, q.tag = tag
    let done := fun tag : Nat => ∃ r ∈ s.ru.results, r.tag = tag
    let place : Nat → Nat → Prop := fun tag code =>
      (queued tag → code = 1) ∧ (¬ queued tag → flying tag → code = 2) ∧
      (¬ queued tag → ¬ flying tag → done tag → code = 3) ∧
      (¬ queued tag → ¬ flying tag → ¬ done tag → code = 0)
    (∀ (tag node timeout : Byte) (bytes : List Byte), bytes.length ≤ 237 →
      let sent := exec (.relaySend a (tag :: node :: timeout :: bytes)) s
      let fits : Prop := 1 ≤ bytes.length ∧ bytes.length ≤ 32
      let ranges : Prop := 1 ≤ node.toNat ∧ node.toNat ≤ 126 ∧ 1 ≤ timeout.toNat ∧ timeout.toNat ≤ 25
      let slot : Prop := ∃ e ∈ s.tb.active.poll, e.2 = PollRow.relay
      let free : Prop := ¬ queued tag.toNat ∧ ¬ flying tag.toNat ∧ ¬ done tag.toNat
      (¬ fits → sent = .next (answeredWith a 0x60 .badLength [] s)) ∧
      (fits → ¬ ranges → sent = .next (answeredWith a 0x60 .badField [] s)) ∧
      (fits → ranges → s.mc.mode = .idle → sent = .next (answeredWith a 0x60 .wrongMode [] s)) ∧
      (fits → ranges → s.mc.mode ≠ .idle → ¬ slot → sent = .next (answeredWith a 0x60 .noSlot [] s)) ∧
      (fits → ranges → s.mc.mode ≠ .idle → slot → ¬ free → ∃ code, place tag.toNat code ∧
        sent = .next (answeredWith a 0x60 .busy [byte code] s)) ∧
      (fits → ranges → s.mc.mode ≠ .idle → slot → free → 8 ≤ s.ru.queue.length →
        sent = .next (answeredWith a 0x60 .full [] s)) ∧
      (fits → ranges → s.mc.mode ≠ .idle → slot → free → s.ru.queue.length < 8 →
        sent = .next (answeredWith a 0x60 .ok [byte (s.ru.queue.length + 1)] (s.setRu { s.ru with
          queue := s.ru.queue ++ [{ tag := tag.toNat, node := node.toNat, replyTimeout := 10 * timeout.toNat
                                    payload := bytes }] })))) ∧
    (∀ selector tag : Byte, 1 < selector.toNat →
      exec (.relayCollect a [selector, tag]) s = .next (answeredWith a 0x61 .badField [] s)) ∧
    (∀ tag : Byte, s.ru.results = [] →
      exec (.relayCollect a [1, tag]) s = .next (answeredWith a 0x61 .notFound [0] s)) ∧
    (∀ (tag : Byte) (r : RelayResult) (rest : List RelayResult), s.ru.results = r :: rest →
      exec (.relayCollect a [1, tag]) s = .next (answeredWith a 0x61 .ok
        (relayResultBytes r ++ [byte rest.length, byte s.ru.queue.length]) (s.setRu { s.ru with results := rest }))) ∧
    (∀ tag : Byte, ¬ done tag.toNat → ∃ code, place tag.toNat code ∧
      exec (.relayCollect a [0, tag]) s = .next (answeredWith a 0x61 .notFound [byte code] s)) ∧
    (∀ (tag : Byte) (r : RelayResult) (front back : List RelayResult), s.ru.results = front ++ r :: back →
      r.tag = tag.toNat → (∀ x ∈ front, x.tag ≠ tag.toNat) →
      exec (.relayCollect a [0, tag]) s = .next (answeredWith a 0x61 .ok
        (relayResultBytes r ++ [byte (front ++ back).length, byte s.ru.queue.length])
        (s.setRu { s.ru with results := front ++ back })))
end

