-- ==== Sys2Proof/Laws/Keyed.lean ====
section
/-! SUPPORT. The laws of keyed collections: what each operation makes of a row and of the set of indices, and that each
keeps the canonical form. -/

namespace Sys2Proof.Machine

variable {α β : Type}

/-! ### Reading a row -/

@[simp] theorem Keyed.get_nil (k : Nat) : Keyed.get ([] : Keyed α) k = none := rfl

theorem Keyed.get_cons (j : Nat) (v : α) (t : Keyed α) (k : Nat) :
    Keyed.get ((j, v) :: t) k = if j = k then some v else Keyed.get t k := rfl

/-- A row that is read is one of the collection's entries. -/
theorem Keyed.mem_of_get {t : Keyed α} {k : Nat} {v : α} (h : t.get k = some v) : (k, v) ∈ t := by
  induction t with
  | nil => simp at h
  | cons e t ih =>
    obtain ⟨j, w⟩ := e
    rw [get_cons] at h
    split at h
    · cases h; subst_vars; simp
    · exact List.mem_cons_of_mem _ (ih h)

/-- In the canonical form each entry is the row at its index. -/
theorem Keyed.get_of_mem {t : Keyed α} {k : Nat} {v : α} (hw : Keyed.wf t) (h : (k, v) ∈ t) : t.get k = some v := by
  induction t with
  | nil => simp at h
  | cons e t ih =>
    obtain ⟨j, w⟩ := e
    rw [get_cons]
    cases hw with
    | cons hlt hw =>
      rcases List.mem_cons.1 h with h | h
      · cases h; simp
      · have := hlt _ h
        simp only at this
        rw [if_neg (by omega)]
        exact ih hw h

/-- An index holds a row exactly when it is one of the indices. -/
theorem Keyed.get_isSome_iff {t : Keyed α} {k : Nat} : (t.get k).isSome = true ↔ k ∈ t.keys := by
  induction t with
  | nil => simp [Keyed.keys]
  | cons e t ih =>
    obtain ⟨j, w⟩ := e
    rw [get_cons]
    by_cases hj : j = k
    · simp [Keyed.keys, hj]
    · rw [if_neg hj, ih]
      simp only [Keyed.keys, List.map_cons, List.mem_cons]
      constructor
      · exact .inr
      · rintro (h | h)
        · exact absurd h.symm hj
        · exact h

/-! ### Writing a row -/

/-- A row that has been put is read back, and every other index reads as before (R134). -/
theorem Keyed.get_put (t : Keyed α) (k : Nat) (v : α) (i : Nat) :
    (t.put k v).get i = if k = i then some v else t.get i := by
  induction t with
  | nil => simp [Keyed.put, get_cons]
  | cons e t ih =>
    obtain ⟨j, w⟩ := e
    unfold Keyed.put
    split
    · simp [get_cons]
    · split
      · subst_vars; simp only [get_cons]; split <;> simp_all
      · simp only [get_cons, ih]
        split
        · subst_vars; rw [if_neg (by omega)]
        · rfl

theorem Keyed.mem_keys_put {t : Keyed α} {k i : Nat} {v : α} : i ∈ (t.put k v).keys ↔ i = k ∨ i ∈ t.keys := by
  rw [← get_isSome_iff, get_put, ← get_isSome_iff]
  split
  · simp_all
  · rename_i h
    constructor
    · exact .inr
    · rintro (h' | h')
      · exact absurd h'.symm h
      · exact h'

theorem Keyed.wf_iff_keys {t : Keyed α} : Keyed.wf t ↔ t.keys.Pairwise (· < ·) := by
  simp [Keyed.wf, Keyed.keys, List.pairwise_map]

/-- Putting a row keeps the canonical form. -/
theorem Keyed.wf_put {t : Keyed α} (hw : Keyed.wf t) (k : Nat) (v : α) : Keyed.wf (t.put k v) := by
  induction t with
  | nil => simp [Keyed.put, Keyed.wf]
  | cons e t ih =>
    obtain ⟨j, w⟩ := e
    rw [wf_iff_keys] at hw
    have hw' := hw
    simp only [Keyed.keys, List.map_cons, List.pairwise_cons] at hw
    unfold Keyed.put
    split
    · rw [wf_iff_keys]
      refine List.pairwise_cons.2 ⟨?_, hw'⟩
      intro x hx
      rcases List.mem_cons.1 hx with h | h
      · simp_all
      · have := hw.1 x h; simp only; omega
    · split
      · subst_vars; rw [wf_iff_keys]; simpa [Keyed.keys] using hw
      · rw [wf_iff_keys]
        refine List.pairwise_cons.2 ⟨?_, wf_iff_keys.1 (ih (wf_iff_keys.2 hw.2))⟩
        intro x hx
        have hx' : x = k ∨ x ∈ Keyed.keys t := mem_keys_put.1 hx
        rcases hx' with h | h
        · simp only; omega
        · exact hw.1 x h

/-- Replacing a row keeps the indices. -/
theorem Keyed.keys_put_of_mem {t : Keyed α} (hw : Keyed.wf t) {k : Nat} (h : k ∈ t.keys) (v : α) :
    (t.put k v).keys = t.keys := by
  induction t with
  | nil => simp [Keyed.keys] at h
  | cons e t ih =>
    obtain ⟨j, w⟩ := e
    rw [wf_iff_keys] at hw
    simp only [Keyed.keys, List.map_cons, List.pairwise_cons, List.mem_cons] at hw h
    unfold Keyed.put
    split
    · rcases h with h | h
      · omega
      · have := hw.1 k h; omega
    · split
      · subst_vars; simp [Keyed.keys]
      · rcases h with h | h
        · omega
        · have := ih (wf_iff_keys.2 hw.2) h
          simp only [Keyed.keys, List.map_cons] at this ⊢
          rw [this]

/-! ### Deleting a row -/

/-- A deleted index holds no row, and every other index reads as before (R134). -/
theorem Keyed.get_del (t : Keyed α) (k i : Nat) : (t.del k).get i = if k = i then none else t.get i := by
  induction t with
  | nil => simp [Keyed.del]
  | cons e t ih =>
    obtain ⟨j, w⟩ := e
    by_cases hj : j = k
    · have : Keyed.del ((j, w) :: t) k = Keyed.del t k := by simp [Keyed.del, hj]
      rw [this, ih, get_cons]
      split
      · rfl
      · rw [if_neg (by omega)]
    · have : Keyed.del ((j, w) :: t) k = (j, w) :: Keyed.del t k := by simp [Keyed.del, hj]
      rw [this, get_cons, get_cons, ih]
      split
      · rw [if_neg (by omega)]
      · rfl

theorem Keyed.wf_filter {t : Keyed α} (hw : Keyed.wf t) (p : Nat × α → Bool) : Keyed.wf (t.filter p) :=
  List.Pairwise.filter p hw

theorem Keyed.wf_del {t : Keyed α} (hw : Keyed.wf t) (k : Nat) : Keyed.wf (t.del k) := wf_filter hw _

/-! ### Changing rows -/

@[simp] theorem Keyed.keys_modify (t : Keyed α) (k : Nat) (f : α → α) : (t.modify k f).keys = t.keys := by
  simp only [Keyed.keys, Keyed.modify, List.map_map]
  apply List.map_congr_left
  intro e _
  simp only [Function.comp_apply]
  split <;> rfl

theorem Keyed.wf_modify {t : Keyed α} (hw : Keyed.wf t) (k : Nat) (f : α → α) : Keyed.wf (t.modify k f) := by
  rw [wf_iff_keys, keys_modify]; exact wf_iff_keys.1 hw

theorem Keyed.get_modify (t : Keyed α) (k : Nat) (f : α → α) (i : Nat) :
    (t.modify k f).get i = if k = i then (t.get i).map f else t.get i := by
  induction t with
  | nil => simp [Keyed.modify]
  | cons e t ih =>
    obtain ⟨j, w⟩ := e
    have : Keyed.modify ((j, w) :: t) k f = (if j = k then (j, f w) else (j, w)) :: Keyed.modify t k f := by
      simp [Keyed.modify]
    rw [this]
    by_cases hj : j = k
    · rw [if_pos hj, get_cons, get_cons, ih]
      by_cases hi : k = i
      · rw [if_pos (by omega), if_pos hi, if_pos (by omega)]; rfl
      · rw [if_neg (by omega), if_neg hi, if_neg hi, if_neg (by omega)]
    · rw [if_neg hj, get_cons, get_cons, ih]
      by_cases hi : k = i
      · rw [if_neg (by omega), if_pos hi, if_pos hi, if_neg (by omega)]
      · rw [if_neg hi, if_neg hi]

@[simp] theorem Keyed.keys_mapRows (t : Keyed α) (f : Nat → α → β) : (t.mapRows f).keys = t.keys := by
  simp [Keyed.keys, Keyed.mapRows]

theorem Keyed.wf_mapRows {t : Keyed α} (hw : Keyed.wf t) (f : Nat → α → β) : Keyed.wf (t.mapRows f) := by
  rw [wf_iff_keys, keys_mapRows]; exact wf_iff_keys.1 hw

theorem Keyed.get_mapRows (t : Keyed α) (f : Nat → α → β) (i : Nat) :
    (t.mapRows f).get i = (t.get i).map (f i) := by
  induction t with
  | nil => simp [Keyed.mapRows]
  | cons e t ih =>
    obtain ⟨j, w⟩ := e
    have : Keyed.mapRows ((j, w) :: t) f = (j, f j w) :: Keyed.mapRows t f := by simp [Keyed.mapRows]
    rw [this, get_cons, get_cons, ih]
    split
    · subst_vars; rfl
    · rfl

/-! ### Saturating counters -/

/-- A saturating counter stays within its maximum (0.6). -/
theorem satSucc_le (top n : Nat) : satSucc top n ≤ top := by
  unfold satSucc; split <;> omega

theorem satSucc_of_lt {top n : Nat} (h : n < top) : satSucc top n = n + 1 := by simp [satSucc, h]

/-! ### The collections at reset -/

theorem State.reset_keyed_wf :
    Keyed.wf State.reset.ti.nodes ∧ Keyed.wf State.reset.si.readings ∧ Keyed.wf State.reset.si.forces ∧
    Keyed.wf State.reset.pe.pairs ∧ Keyed.wf State.reset.zm.zones ∧ Keyed.wf State.reset.tb.active.poll := by
  decide

end Sys2Proof.Machine
end

