-- ==== Sys2Proof/Laws/State.lean ====
section
/-! SUPPORT. The fields of a state after one of its blocks is replaced: one lemma per field per setter. -/

namespace Sys2Proof.Machine

@[simp] theorem State.setTi_supply (s : State) (x : TrunkState) : (s.setTi x).supply = s.supply := rfl
@[simp] theorem State.setTi_ti (s : State) (x : TrunkState) : (s.setTi x).ti = x := rfl
@[simp] theorem State.setTi_ps (s : State) (x : TrunkState) : (s.setTi x).ps = s.ps := rfl
@[simp] theorem State.setTi_si (s : State) (x : TrunkState) : (s.setTi x).si = s.si := rfl
@[simp] theorem State.setTi_pe (s : State) (x : TrunkState) : (s.setTi x).pe = s.pe := rfl
@[simp] theorem State.setTi_zm (s : State) (x : TrunkState) : (s.setTi x).zm = s.zm := rfl
@[simp] theorem State.setTi_tb (s : State) (x : TrunkState) : (s.setTi x).tb = s.tb := rfl
@[simp] theorem State.setTi_ru (s : State) (x : TrunkState) : (s.setTi x).ru = s.ru := rfl
@[simp] theorem State.setTi_ui (s : State) (x : TrunkState) : (s.setTi x).ui = s.ui := rfl
@[simp] theorem State.setTi_mc (s : State) (x : TrunkState) : (s.setTi x).mc = s.mc := rfl
@[simp] theorem State.setTi_cs (s : State) (x : TrunkState) : (s.setTi x).cs = s.cs := rfl
@[simp] theorem State.setTi_orderChoices (s : State) (x : TrunkState) : (s.setTi x).orderChoices = s.orderChoices := rfl
@[simp] theorem State.setTi_pending (s : State) (x : TrunkState) : (s.setTi x).pending = s.pending := rfl
@[simp] theorem State.setTi_setTi (s : State) (x y : TrunkState) : (s.setTi x).setTi y = s.setTi y := rfl
theorem State.setTi_self (s : State) : s.setTi s.ti = s := rfl

@[simp] theorem State.setPs_supply (s : State) (x : PollState) : (s.setPs x).supply = s.supply := rfl
@[simp] theorem State.setPs_ti (s : State) (x : PollState) : (s.setPs x).ti = s.ti := rfl
@[simp] theorem State.setPs_ps (s : State) (x : PollState) : (s.setPs x).ps = x := rfl
@[simp] theorem State.setPs_si (s : State) (x : PollState) : (s.setPs x).si = s.si := rfl
@[simp] theorem State.setPs_pe (s : State) (x : PollState) : (s.setPs x).pe = s.pe := rfl
@[simp] theorem State.setPs_zm (s : State) (x : PollState) : (s.setPs x).zm = s.zm := rfl
@[simp] theorem State.setPs_tb (s : State) (x : PollState) : (s.setPs x).tb = s.tb := rfl
@[simp] theorem State.setPs_ru (s : State) (x : PollState) : (s.setPs x).ru = s.ru := rfl
@[simp] theorem State.setPs_ui (s : State) (x : PollState) : (s.setPs x).ui = s.ui := rfl
@[simp] theorem State.setPs_mc (s : State) (x : PollState) : (s.setPs x).mc = s.mc := rfl
@[simp] theorem State.setPs_cs (s : State) (x : PollState) : (s.setPs x).cs = s.cs := rfl
@[simp] theorem State.setPs_orderChoices (s : State) (x : PollState) : (s.setPs x).orderChoices = s.orderChoices := rfl
@[simp] theorem State.setPs_pending (s : State) (x : PollState) : (s.setPs x).pending = s.pending := rfl
@[simp] theorem State.setPs_setPs (s : State) (x y : PollState) : (s.setPs x).setPs y = s.setPs y := rfl
theorem State.setPs_self (s : State) : s.setPs s.ps = s := rfl

@[simp] theorem State.setSi_supply (s : State) (x : IntakeState) : (s.setSi x).supply = s.supply := rfl
@[simp] theorem State.setSi_ti (s : State) (x : IntakeState) : (s.setSi x).ti = s.ti := rfl
@[simp] theorem State.setSi_ps (s : State) (x : IntakeState) : (s.setSi x).ps = s.ps := rfl
@[simp] theorem State.setSi_si (s : State) (x : IntakeState) : (s.setSi x).si = x := rfl
@[simp] theorem State.setSi_pe (s : State) (x : IntakeState) : (s.setSi x).pe = s.pe := rfl
@[simp] theorem State.setSi_zm (s : State) (x : IntakeState) : (s.setSi x).zm = s.zm := rfl
@[simp] theorem State.setSi_tb (s : State) (x : IntakeState) : (s.setSi x).tb = s.tb := rfl
@[simp] theorem State.setSi_ru (s : State) (x : IntakeState) : (s.setSi x).ru = s.ru := rfl
@[simp] theorem State.setSi_ui (s : State) (x : IntakeState) : (s.setSi x).ui = s.ui := rfl
@[simp] theorem State.setSi_mc (s : State) (x : IntakeState) : (s.setSi x).mc = s.mc := rfl
@[simp] theorem State.setSi_cs (s : State) (x : IntakeState) : (s.setSi x).cs = s.cs := rfl
@[simp] theorem State.setSi_orderChoices (s : State) (x : IntakeState) : (s.setSi x).orderChoices = s.orderChoices := rfl
@[simp] theorem State.setSi_pending (s : State) (x : IntakeState) : (s.setSi x).pending = s.pending := rfl
@[simp] theorem State.setSi_setSi (s : State) (x y : IntakeState) : (s.setSi x).setSi y = s.setSi y := rfl
theorem State.setSi_self (s : State) : s.setSi s.si = s := rfl

@[simp] theorem State.setPe_supply (s : State) (x : PairState) : (s.setPe x).supply = s.supply := rfl
@[simp] theorem State.setPe_ti (s : State) (x : PairState) : (s.setPe x).ti = s.ti := rfl
@[simp] theorem State.setPe_ps (s : State) (x : PairState) : (s.setPe x).ps = s.ps := rfl
@[simp] theorem State.setPe_si (s : State) (x : PairState) : (s.setPe x).si = s.si := rfl
@[simp] theorem State.setPe_pe (s : State) (x : PairState) : (s.setPe x).pe = x := rfl
@[simp] theorem State.setPe_zm (s : State) (x : PairState) : (s.setPe x).zm = s.zm := rfl
@[simp] theorem State.setPe_tb (s : State) (x : PairState) : (s.setPe x).tb = s.tb := rfl
@[simp] theorem State.setPe_ru (s : State) (x : PairState) : (s.setPe x).ru = s.ru := rfl
@[simp] theorem State.setPe_ui (s : State) (x : PairState) : (s.setPe x).ui = s.ui := rfl
@[simp] theorem State.setPe_mc (s : State) (x : PairState) : (s.setPe x).mc = s.mc := rfl
@[simp] theorem State.setPe_cs (s : State) (x : PairState) : (s.setPe x).cs = s.cs := rfl
@[simp] theorem State.setPe_orderChoices (s : State) (x : PairState) : (s.setPe x).orderChoices = s.orderChoices := rfl
@[simp] theorem State.setPe_pending (s : State) (x : PairState) : (s.setPe x).pending = s.pending := rfl
@[simp] theorem State.setPe_setPe (s : State) (x y : PairState) : (s.setPe x).setPe y = s.setPe y := rfl
theorem State.setPe_self (s : State) : s.setPe s.pe = s := rfl

@[simp] theorem State.setZm_supply (s : State) (x : ZoneState) : (s.setZm x).supply = s.supply := rfl
@[simp] theorem State.setZm_ti (s : State) (x : ZoneState) : (s.setZm x).ti = s.ti := rfl
@[simp] theorem State.setZm_ps (s : State) (x : ZoneState) : (s.setZm x).ps = s.ps := rfl
@[simp] theorem State.setZm_si (s : State) (x : ZoneState) : (s.setZm x).si = s.si := rfl
@[simp] theorem State.setZm_pe (s : State) (x : ZoneState) : (s.setZm x).pe = s.pe := rfl
@[simp] theorem State.setZm_zm (s : State) (x : ZoneState) : (s.setZm x).zm = x := rfl
@[simp] theorem State.setZm_tb (s : State) (x : ZoneState) : (s.setZm x).tb = s.tb := rfl
@[simp] theorem State.setZm_ru (s : State) (x : ZoneState) : (s.setZm x).ru = s.ru := rfl
@[simp] theorem State.setZm_ui (s : State) (x : ZoneState) : (s.setZm x).ui = s.ui := rfl
@[simp] theorem State.setZm_mc (s : State) (x : ZoneState) : (s.setZm x).mc = s.mc := rfl
@[simp] theorem State.setZm_cs (s : State) (x : ZoneState) : (s.setZm x).cs = s.cs := rfl
@[simp] theorem State.setZm_orderChoices (s : State) (x : ZoneState) : (s.setZm x).orderChoices = s.orderChoices := rfl
@[simp] theorem State.setZm_pending (s : State) (x : ZoneState) : (s.setZm x).pending = s.pending := rfl
@[simp] theorem State.setZm_setZm (s : State) (x y : ZoneState) : (s.setZm x).setZm y = s.setZm y := rfl
theorem State.setZm_self (s : State) : s.setZm s.zm = s := rfl

@[simp] theorem State.setTb_supply (s : State) (x : TableStore) : (s.setTb x).supply = s.supply := rfl
@[simp] theorem State.setTb_ti (s : State) (x : TableStore) : (s.setTb x).ti = s.ti := rfl
@[simp] theorem State.setTb_ps (s : State) (x : TableStore) : (s.setTb x).ps = s.ps := rfl
@[simp] theorem State.setTb_si (s : State) (x : TableStore) : (s.setTb x).si = s.si := rfl
@[simp] theorem State.setTb_pe (s : State) (x : TableStore) : (s.setTb x).pe = s.pe := rfl
@[simp] theorem State.setTb_zm (s : State) (x : TableStore) : (s.setTb x).zm = s.zm := rfl
@[simp] theorem State.setTb_tb (s : State) (x : TableStore) : (s.setTb x).tb = x := rfl
@[simp] theorem State.setTb_ru (s : State) (x : TableStore) : (s.setTb x).ru = s.ru := rfl
@[simp] theorem State.setTb_ui (s : State) (x : TableStore) : (s.setTb x).ui = s.ui := rfl
@[simp] theorem State.setTb_mc (s : State) (x : TableStore) : (s.setTb x).mc = s.mc := rfl
@[simp] theorem State.setTb_cs (s : State) (x : TableStore) : (s.setTb x).cs = s.cs := rfl
@[simp] theorem State.setTb_orderChoices (s : State) (x : TableStore) : (s.setTb x).orderChoices = s.orderChoices := rfl
@[simp] theorem State.setTb_pending (s : State) (x : TableStore) : (s.setTb x).pending = s.pending := rfl
@[simp] theorem State.setTb_setTb (s : State) (x y : TableStore) : (s.setTb x).setTb y = s.setTb y := rfl
theorem State.setTb_self (s : State) : s.setTb s.tb = s := rfl

@[simp] theorem State.setRu_supply (s : State) (x : RelayState) : (s.setRu x).supply = s.supply := rfl
@[simp] theorem State.setRu_ti (s : State) (x : RelayState) : (s.setRu x).ti = s.ti := rfl
@[simp] theorem State.setRu_ps (s : State) (x : RelayState) : (s.setRu x).ps = s.ps := rfl
@[simp] theorem State.setRu_si (s : State) (x : RelayState) : (s.setRu x).si = s.si := rfl
@[simp] theorem State.setRu_pe (s : State) (x : RelayState) : (s.setRu x).pe = s.pe := rfl
@[simp] theorem State.setRu_zm (s : State) (x : RelayState) : (s.setRu x).zm = s.zm := rfl
@[simp] theorem State.setRu_tb (s : State) (x : RelayState) : (s.setRu x).tb = s.tb := rfl
@[simp] theorem State.setRu_ru (s : State) (x : RelayState) : (s.setRu x).ru = x := rfl
@[simp] theorem State.setRu_ui (s : State) (x : RelayState) : (s.setRu x).ui = s.ui := rfl
@[simp] theorem State.setRu_mc (s : State) (x : RelayState) : (s.setRu x).mc = s.mc := rfl
@[simp] theorem State.setRu_cs (s : State) (x : RelayState) : (s.setRu x).cs = s.cs := rfl
@[simp] theorem State.setRu_orderChoices (s : State) (x : RelayState) : (s.setRu x).orderChoices = s.orderChoices := rfl
@[simp] theorem State.setRu_pending (s : State) (x : RelayState) : (s.setRu x).pending = s.pending := rfl
@[simp] theorem State.setRu_setRu (s : State) (x y : RelayState) : (s.setRu x).setRu y = s.setRu y := rfl
theorem State.setRu_self (s : State) : s.setRu s.ru = s := rfl

@[simp] theorem State.setUi_supply (s : State) (x : UplinkState) : (s.setUi x).supply = s.supply := rfl
@[simp] theorem State.setUi_ti (s : State) (x : UplinkState) : (s.setUi x).ti = s.ti := rfl
@[simp] theorem State.setUi_ps (s : State) (x : UplinkState) : (s.setUi x).ps = s.ps := rfl
@[simp] theorem State.setUi_si (s : State) (x : UplinkState) : (s.setUi x).si = s.si := rfl
@[simp] theorem State.setUi_pe (s : State) (x : UplinkState) : (s.setUi x).pe = s.pe := rfl
@[simp] theorem State.setUi_zm (s : State) (x : UplinkState) : (s.setUi x).zm = s.zm := rfl
@[simp] theorem State.setUi_tb (s : State) (x : UplinkState) : (s.setUi x).tb = s.tb := rfl
@[simp] theorem State.setUi_ru (s : State) (x : UplinkState) : (s.setUi x).ru = s.ru := rfl
@[simp] theorem State.setUi_ui (s : State) (x : UplinkState) : (s.setUi x).ui = x := rfl
@[simp] theorem State.setUi_mc (s : State) (x : UplinkState) : (s.setUi x).mc = s.mc := rfl
@[simp] theorem State.setUi_cs (s : State) (x : UplinkState) : (s.setUi x).cs = s.cs := rfl
@[simp] theorem State.setUi_orderChoices (s : State) (x : UplinkState) : (s.setUi x).orderChoices = s.orderChoices := rfl
@[simp] theorem State.setUi_pending (s : State) (x : UplinkState) : (s.setUi x).pending = s.pending := rfl
@[simp] theorem State.setUi_setUi (s : State) (x y : UplinkState) : (s.setUi x).setUi y = s.setUi y := rfl
theorem State.setUi_self (s : State) : s.setUi s.ui = s := rfl

@[simp] theorem State.setMc_supply (s : State) (x : ModeState) : (s.setMc x).supply = s.supply := rfl
@[simp] theorem State.setMc_ti (s : State) (x : ModeState) : (s.setMc x).ti = s.ti := rfl
@[simp] theorem State.setMc_ps (s : State) (x : ModeState) : (s.setMc x).ps = s.ps := rfl
@[simp] theorem State.setMc_si (s : State) (x : ModeState) : (s.setMc x).si = s.si := rfl
@[simp] theorem State.setMc_pe (s : State) (x : ModeState) : (s.setMc x).pe = s.pe := rfl
@[simp] theorem State.setMc_zm (s : State) (x : ModeState) : (s.setMc x).zm = s.zm := rfl
@[simp] theorem State.setMc_tb (s : State) (x : ModeState) : (s.setMc x).tb = s.tb := rfl
@[simp] theorem State.setMc_ru (s : State) (x : ModeState) : (s.setMc x).ru = s.ru := rfl
@[simp] theorem State.setMc_ui (s : State) (x : ModeState) : (s.setMc x).ui = s.ui := rfl
@[simp] theorem State.setMc_mc (s : State) (x : ModeState) : (s.setMc x).mc = x := rfl
@[simp] theorem State.setMc_cs (s : State) (x : ModeState) : (s.setMc x).cs = s.cs := rfl
@[simp] theorem State.setMc_orderChoices (s : State) (x : ModeState) : (s.setMc x).orderChoices = s.orderChoices := rfl
@[simp] theorem State.setMc_pending (s : State) (x : ModeState) : (s.setMc x).pending = s.pending := rfl
@[simp] theorem State.setMc_setMc (s : State) (x y : ModeState) : (s.setMc x).setMc y = s.setMc y := rfl
theorem State.setMc_self (s : State) : s.setMc s.mc = s := rfl

@[simp] theorem State.setCs_supply (s : State) (x : StoreState) : (s.setCs x).supply = s.supply := rfl
@[simp] theorem State.setCs_ti (s : State) (x : StoreState) : (s.setCs x).ti = s.ti := rfl
@[simp] theorem State.setCs_ps (s : State) (x : StoreState) : (s.setCs x).ps = s.ps := rfl
@[simp] theorem State.setCs_si (s : State) (x : StoreState) : (s.setCs x).si = s.si := rfl
@[simp] theorem State.setCs_pe (s : State) (x : StoreState) : (s.setCs x).pe = s.pe := rfl
@[simp] theorem State.setCs_zm (s : State) (x : StoreState) : (s.setCs x).zm = s.zm := rfl
@[simp] theorem State.setCs_tb (s : State) (x : StoreState) : (s.setCs x).tb = s.tb := rfl
@[simp] theorem State.setCs_ru (s : State) (x : StoreState) : (s.setCs x).ru = s.ru := rfl
@[simp] theorem State.setCs_ui (s : State) (x : StoreState) : (s.setCs x).ui = s.ui := rfl
@[simp] theorem State.setCs_mc (s : State) (x : StoreState) : (s.setCs x).mc = s.mc := rfl
@[simp] theorem State.setCs_cs (s : State) (x : StoreState) : (s.setCs x).cs = x := rfl
@[simp] theorem State.setCs_orderChoices (s : State) (x : StoreState) : (s.setCs x).orderChoices = s.orderChoices := rfl
@[simp] theorem State.setCs_pending (s : State) (x : StoreState) : (s.setCs x).pending = s.pending := rfl
@[simp] theorem State.setCs_setCs (s : State) (x y : StoreState) : (s.setCs x).setCs y = s.setCs y := rfl
theorem State.setCs_self (s : State) : s.setCs s.cs = s := rfl

@[simp] theorem State.setSupply_supply (s : State) (x : Supply) : (s.setSupply x).supply = x := rfl
@[simp] theorem State.setSupply_ti (s : State) (x : Supply) : (s.setSupply x).ti = s.ti := rfl
@[simp] theorem State.setSupply_ps (s : State) (x : Supply) : (s.setSupply x).ps = s.ps := rfl
@[simp] theorem State.setSupply_si (s : State) (x : Supply) : (s.setSupply x).si = s.si := rfl
@[simp] theorem State.setSupply_pe (s : State) (x : Supply) : (s.setSupply x).pe = s.pe := rfl
@[simp] theorem State.setSupply_zm (s : State) (x : Supply) : (s.setSupply x).zm = s.zm := rfl
@[simp] theorem State.setSupply_tb (s : State) (x : Supply) : (s.setSupply x).tb = s.tb := rfl
@[simp] theorem State.setSupply_ru (s : State) (x : Supply) : (s.setSupply x).ru = s.ru := rfl
@[simp] theorem State.setSupply_ui (s : State) (x : Supply) : (s.setSupply x).ui = s.ui := rfl
@[simp] theorem State.setSupply_mc (s : State) (x : Supply) : (s.setSupply x).mc = s.mc := rfl
@[simp] theorem State.setSupply_cs (s : State) (x : Supply) : (s.setSupply x).cs = s.cs := rfl
@[simp] theorem State.setSupply_orderChoices (s : State) (x : Supply) : (s.setSupply x).orderChoices = s.orderChoices := rfl
@[simp] theorem State.setSupply_pending (s : State) (x : Supply) : (s.setSupply x).pending = s.pending := rfl
@[simp] theorem State.setSupply_setSupply (s : State) (x y : Supply) : (s.setSupply x).setSupply y = s.setSupply y := rfl
theorem State.setSupply_self (s : State) : s.setSupply s.supply = s := rfl

@[simp] theorem State.nextOrder_supply (s : State) : s.nextOrder.supply = s.supply := rfl
@[simp] theorem State.nextOrder_ti (s : State) : s.nextOrder.ti = s.ti := rfl
@[simp] theorem State.nextOrder_ps (s : State) : s.nextOrder.ps = s.ps := rfl
@[simp] theorem State.nextOrder_si (s : State) : s.nextOrder.si = s.si := rfl
@[simp] theorem State.nextOrder_pe (s : State) : s.nextOrder.pe = s.pe := rfl
@[simp] theorem State.nextOrder_zm (s : State) : s.nextOrder.zm = s.zm := rfl
@[simp] theorem State.nextOrder_tb (s : State) : s.nextOrder.tb = s.tb := rfl
@[simp] theorem State.nextOrder_ru (s : State) : s.nextOrder.ru = s.ru := rfl
@[simp] theorem State.nextOrder_ui (s : State) : s.nextOrder.ui = s.ui := rfl
@[simp] theorem State.nextOrder_mc (s : State) : s.nextOrder.mc = s.mc := rfl
@[simp] theorem State.nextOrder_cs (s : State) : s.nextOrder.cs = s.cs := rfl
@[simp] theorem State.nextOrder_orderChoices (s : State) : s.nextOrder.orderChoices = s.orderChoices + 1 := rfl
@[simp] theorem State.nextOrder_pending (s : State) : s.nextOrder.pending = s.pending := rfl

@[simp] theorem State.live_setTi (s : State) (x : TrunkState) : (s.setTi x).live = s.live := rfl
@[simp] theorem State.live_setPs (s : State) (x : PollState) : (s.setPs x).live = s.live := rfl
@[simp] theorem State.live_setSi (s : State) (x : IntakeState) : (s.setSi x).live = s.live := rfl
@[simp] theorem State.live_setPe (s : State) (x : PairState) : (s.setPe x).live = s.live := rfl
@[simp] theorem State.live_setZm (s : State) (x : ZoneState) : (s.setZm x).live = s.live := rfl
@[simp] theorem State.live_setTb (s : State) (x : TableStore) : (s.setTb x).live = s.live := rfl
@[simp] theorem State.live_setRu (s : State) (x : RelayState) : (s.setRu x).live = s.live := rfl
@[simp] theorem State.live_setUi (s : State) (x : UplinkState) : (s.setUi x).live = s.live := rfl
@[simp] theorem State.live_setMc (s : State) (x : ModeState) : (s.setMc x).live = s.live := rfl
@[simp] theorem State.live_setCs (s : State) (x : StoreState) : (s.setCs x).live = s.live := rfl
@[simp] theorem State.live_nextOrder (s : State) : s.nextOrder.live = s.live := rfl

end Sys2Proof.Machine
end

