-- ==== Sys2Proof/Laws/Frames.lean ====
section
/-! SUPPORT. Which blocks each shared operation can change: each relation says that two states differ at most in the blocks
it names, and one lemma per operation places it under a relation. -/

namespace Sys2Proof.Machine

/-! ### The relations -/

/-- The states differ at most in ZM. -/
def ZonesOnly (s t : State) : Prop := t = s.setZm t.zm

/-- The states differ at most in PE and ZM. -/
def PairsOnly (s t : State) : Prop := t = (s.setPe t.pe).setZm t.zm

/-- The states differ at most in SI, PE and ZM. -/
def ReadingsOnly (s t : State) : Prop := t = ((s.setSi t.si).setPe t.pe).setZm t.zm

/-- The states differ at most in TI, SI, PE, ZM and TB. -/
def CommitOnly (s t : State) : Prop := t = ((((s.setTi t.ti).setSi t.si).setPe t.pe).setZm t.zm).setTb t.tb

/-- The states have the same supply, uplink, store and queue. -/
def CycleOnly (s t : State) : Prop :=
  t.supply = s.supply ∧ t.ui = s.ui ∧ t.cs = s.cs ∧ t.pending = s.pending

theorem ZonesOnly.refl (s : State) : ZonesOnly s s := rfl
theorem PairsOnly.refl (s : State) : PairsOnly s s := rfl
theorem ReadingsOnly.refl (s : State) : ReadingsOnly s s := rfl
theorem CommitOnly.refl (s : State) : CommitOnly s s := rfl
theorem CycleOnly.refl (s : State) : CycleOnly s s := ⟨rfl, rfl, rfl, rfl⟩

theorem ZonesOnly.trans {s t u : State} (h : ZonesOnly s t) (k : ZonesOnly t u) : ZonesOnly s u := by
  unfold ZonesOnly at *; rw [h] at k; exact k
theorem PairsOnly.trans {s t u : State} (h : PairsOnly s t) (k : PairsOnly t u) : PairsOnly s u := by
  unfold PairsOnly at *; rw [h] at k; exact k
theorem ReadingsOnly.trans {s t u : State} (h : ReadingsOnly s t) (k : ReadingsOnly t u) : ReadingsOnly s u := by
  unfold ReadingsOnly at *; rw [h] at k; exact k
theorem CommitOnly.trans {s t u : State} (h : CommitOnly s t) (k : CommitOnly t u) : CommitOnly s u := by
  unfold CommitOnly at *; rw [h] at k; exact k
theorem CycleOnly.trans {s t u : State} (h : CycleOnly s t) (k : CycleOnly t u) : CycleOnly s u :=
  ⟨k.1.trans h.1, k.2.1.trans h.2.1, k.2.2.1.trans h.2.2.1, k.2.2.2.trans h.2.2.2⟩

theorem ZonesOnly.pairs {s t : State} (h : ZonesOnly s t) : PairsOnly s t := by
  unfold ZonesOnly PairsOnly at *; rw [h]; rfl
theorem PairsOnly.readings {s t : State} (h : PairsOnly s t) : ReadingsOnly s t := by
  unfold PairsOnly ReadingsOnly at *; rw [h]; rfl
theorem ReadingsOnly.commit {s t : State} (h : ReadingsOnly s t) : CommitOnly s t := by
  unfold ReadingsOnly CommitOnly at *; rw [h]; rfl
theorem CommitOnly.cycle {s t : State} (h : CommitOnly s t) : CycleOnly s t := by
  unfold CommitOnly CycleOnly at *; rw [h]; exact ⟨rfl, rfl, rfl, rfl⟩

/-- What a state that differs in PE and ZM at most keeps. -/
theorem PairsOnly.keeps {s t : State} (h : PairsOnly s t) :
    t.supply = s.supply ∧ t.ti = s.ti ∧ t.ps = s.ps ∧ t.si = s.si ∧ t.tb = s.tb ∧ t.ru = s.ru ∧ t.ui = s.ui ∧
    t.mc = s.mc ∧ t.cs = s.cs ∧ t.orderChoices = s.orderChoices ∧ t.pending = s.pending := by
  unfold PairsOnly at h; rw [h]; exact ⟨rfl, rfl, rfl, rfl, rfl, rfl, rfl, rfl, rfl, rfl, rfl⟩

/-- What a state that differs in SI, PE and ZM at most keeps. -/
theorem ReadingsOnly.keeps {s t : State} (h : ReadingsOnly s t) :
    t.supply = s.supply ∧ t.ti = s.ti ∧ t.ps = s.ps ∧ t.tb = s.tb ∧ t.ru = s.ru ∧ t.ui = s.ui ∧
    t.mc = s.mc ∧ t.cs = s.cs ∧ t.orderChoices = s.orderChoices ∧ t.pending = s.pending := by
  unfold ReadingsOnly at h; rw [h]; exact ⟨rfl, rfl, rfl, rfl, rfl, rfl, rfl, rfl, rfl, rfl⟩

/-- What a state that differs as a commit may make it keeps (R148). -/
theorem CommitOnly.keeps {s t : State} (h : CommitOnly s t) :
    t.supply = s.supply ∧ t.ps = s.ps ∧ t.ru = s.ru ∧ t.ui = s.ui ∧ t.mc = s.mc ∧ t.cs = s.cs ∧
    t.orderChoices = s.orderChoices ∧ t.pending = s.pending := by
  unfold CommitOnly at h; rw [h]; exact ⟨rfl, rfl, rfl, rfl, rfl, rfl, rfl, rfl⟩

/-- What a state that differs in ZM at most keeps. -/
theorem ZonesOnly.keeps {s t : State} (h : ZonesOnly s t) :
    t.supply = s.supply ∧ t.ti = s.ti ∧ t.ps = s.ps ∧ t.si = s.si ∧ t.pe = s.pe ∧ t.tb = s.tb ∧ t.ru = s.ru ∧
    t.ui = s.ui ∧ t.mc = s.mc ∧ t.cs = s.cs ∧ t.orderChoices = s.orderChoices ∧ t.pending = s.pending := by
  unfold ZonesOnly at h; rw [h]; exact ⟨rfl, rfl, rfl, rfl, rfl, rfl, rfl, rfl, rfl, rfl, rfl, rfl⟩

/-- A fold of steps that each keep a transitive, reflexive relation keeps it. -/
theorem foldl_keeps {α : Type} (R : State → State → Prop) (refl : ∀ s, R s s)
    (trans : ∀ {s t u}, R s t → R t u → R s u) (f : State → α → State) (step : ∀ s a, R s (f s a)) :
    ∀ (l : List α) (s : State), R s (l.foldl f s)
  | [], s => refl s
  | a :: l, s => trans (step s a) (foldl_keeps R refl trans f step l (f s a))

/-! ### Zone Monitor and Pair Evaluator -/

theorem zoneNotice_only (zone : Nat) (s : State) : ZonesOnly s (zoneNotice zone s) := by
  unfold ZonesOnly zoneNotice; split <;> rfl

theorem publish_only (s : State) : ZonesOnly s (publish s) := rfl

theorem closeSummary_only (s : State) : ZonesOnly s (closeSummary s) := by
  unfold ZonesOnly closeSummary; dsimp only; split <;> rfl

theorem breakSummary_only (s : State) : ZonesOnly s (breakSummary s) := by
  unfold breakSummary
  split
  · exact (closeSummary_only s).trans rfl
  · exact ZonesOnly.refl s

theorem zoneCompletion_only (s : State) : ZonesOnly s (zoneCompletion s) := by
  unfold ZonesOnly zoneCompletion
  split
  · split <;> rfl
  · rfl

theorem commitZones_only (s : State) : ZonesOnly s (commitZones s) := rfl

theorem writePair_only (pair : Nat) (row : PairRow) (r : PairRecord) (s : State) :
    PairsOnly s (writePair pair row r s) := by
  have h := zoneNotice_only row.zone (s.setPe { s.pe with pairs := s.pe.pairs.put pair r })
  unfold PairsOnly writePair
  unfold ZonesOnly at h
  rw [h]; rfl

theorem evaluatePair_only (updated : List Nat) (s : State) (e : Nat × PairRow) :
    PairsOnly s (evaluatePair updated s e) := by
  unfold evaluatePair
  split
  · split
    · exact writePair_only ..
    · exact PairsOnly.refl s
  · exact PairsOnly.refl s

theorem dropPair_only (pair : Nat) (row : PairRow) (reason : Reason) (s : State) :
    PairsOnly s (dropPair pair row reason s) := by
  unfold dropPair
  split
  · split
    · exact writePair_only ..
    · exact PairsOnly.refl s
  · exact PairsOnly.refl s

theorem dropLost_only (lost : List (Nat × Quality)) (s : State) (e : Nat × PairRow) :
    PairsOnly s (dropLost lost s e) := by
  unfold dropLost
  split
  · exact dropPair_only ..
  · exact PairsOnly.refl s

theorem pairNotice_only (lost : List (Nat × Quality)) (updated : List Nat) (s : State) :
    PairsOnly s (pairNotice lost updated s) := by
  unfold pairNotice
  exact (foldl_keeps PairsOnly PairsOnly.refl PairsOnly.trans _ (dropLost_only lost) _ s).trans
    (foldl_keeps PairsOnly PairsOnly.refl PairsOnly.trans _ (evaluatePair_only updated) _ _)

theorem stopPairs_only (s : State) : PairsOnly s (stopPairs s) := by
  unfold stopPairs
  exact foldl_keeps PairsOnly PairsOnly.refl PairsOnly.trans _
    (fun s (e : Nat × PairRow) => dropPair_only e.1 e.2 .stopped s) _ s

/-- A pair made UNKNOWN where it is judged, and kept otherwise (R102, R103). -/
theorem dropPair_get (pair : Nat) (row : PairRow) (reason : Reason) (s : State) (p : Nat) :
    (dropPair pair row reason s).pe.pairs.get p = (s.pe.pairs.get p).map fun r =>
      if p = pair ∧ r.state.level? ≠ none then r.toUnknown reason else r := by
  unfold dropPair
  split
  · rename_i r hr
    split
    · rename_i l hl
      unfold writePair
      rw [(zoneNotice_only _ _).keeps.2.2.2.2.1, State.setPe_pe, Keyed.get_put]
      by_cases hp : pair = p
      · subst hp; simp [hr, hl, RiskState.level?]
      · have : ¬ p = pair := fun h => hp h.symm
        simp [hp, this]
    · rename_i hl
      by_cases hp : p = pair
      · subst hp; simp [hr, hl, RiskState.level?]
      · simp [hp]
  · rename_i hr
    by_cases hp : p = pair
    · subst hp; simp [hr]
    · simp [hp]

/-- The stop's drops (R103): each judged pair of a row becomes UNKNOWN(STOPPED). -/
theorem stopPairs_get (s : State) (p : Nat) :
    (stopPairs s).pe.pairs.get p = (s.pe.pairs.get p).map fun r =>
      if (s.tb.active.pair.get p).isSome = true ∧ r.state.level? ≠ none then r.toUnknown .stopped else r := by
  unfold stopPairs
  generalize s.tb.active.pair = rows
  induction rows generalizing s with
  | nil => simp
  | cons e rows ih =>
    rw [List.foldl_cons, ih, dropPair_get, Keyed.get_cons]
    by_cases he : e.1 = p
    · subst he
      cases s.pe.pairs.get e.1 with
      | none => rfl
      | some r =>
        by_cases hr : r.state.level? = none
        · simp [hr]
        · have hu : (r.toUnknown .stopped).state.level? = none := rfl
          simp [hr, hu]
    · have : ¬ p = e.1 := fun h => he h.symm
      simp [he, this]

/-! ### Sample Intake -/

theorem ReadingsOnly.of_setSi {s t : State} (x : IntakeState) (h : PairsOnly (s.setSi x) t) : ReadingsOnly s t := by
  unfold ReadingsOnly PairsOnly at *; rw [h]; rfl

theorem intakeEvent_only (n : Notice) (s : State) : ReadingsOnly s (intakeEvent n s) :=
  ReadingsOnly.of_setSi _ (pairNotice_only _ _ _)

theorem countDown_only (s : State) : ReadingsOnly s (countDown s) :=
  ReadingsOnly.of_setSi _ (pairNotice_only _ _ _)

theorem stopWork_only (s : State) : ReadingsOnly s (stopWork s) :=
  ReadingsOnly.of_setSi _ (stopPairs_only _)

/-! ### The readings and the Force List after each event -/

/-- The readings an intake event leaves are those of its steps 1 and 2, and it leaves the Force List (R43). -/
theorem intakeEvent_si (n : Notice) (s : State) :
    (intakeEvent n s).si = { s.si with readings := (intakeWork n s).readings } :=
  (pairNotice_only _ _ _).keeps.2.2.2.1

/-- A count-down leaves every reading counted down, and the Force List as it was (R52). -/
theorem countDown_si (s : State) :
    (countDown s).si = { s.si with readings := s.si.readings.mapRows fun _ r => r.countDown } :=
  (pairNotice_only _ _ _).keeps.2.2.2.1

/-- The stop leaves every usable reading STALE, and the Force List as it was (R54). -/
theorem stopWork_si (s : State) :
    (stopWork s).si = { s.si with readings := s.si.readings.mapRows fun _ r => r.atStop } :=
  (stopPairs_only _).keeps.2.2.2.1

/-! ### Commit and the cycle -/

theorem takeCommit_only (c : Tables) (s : State) : CommitOnly s (takeCommit c s) := rfl

/-- A commit leaves the candidate set active, nothing staged and no commit pending (R145); a load sequence is not its
matter. -/
theorem takeCommit_tb (c : Tables) (s : State) :
    (takeCommit c s).tb = { s.tb with active := c, staged := {}, pendingCommit := none } := rfl

/-- What a boundary can do: its work alone, or its work with the pending commit in one of the two orders (R117, R146). -/
theorem boundary_cases (work : State → State) (s : State) :
    (s.tb.pendingCommit = none ∧ boundary work s = work s) ∨
    (∃ c, s.tb.pendingCommit = some c ∧
      (boundary work s = work (takeCommit c s.nextOrder) ∨ boundary work s = takeCommit c (work s.nextOrder))) := by
  unfold boundary
  split
  · exact .inl ⟨‹_›, rfl⟩
  · refine .inr ⟨_, ‹_›, ?_⟩
    split
    · exact .inl rfl
    · exact .inr rfl

/-- What a boundary keeps when its work keeps it: everything but TI, SI, PE, ZM, TB and the count of free choices. -/
theorem boundary_keeps {work : State → State} (hw : ∀ s, CommitOnly s (work s)) (s : State) :
    (boundary work s).supply = s.supply ∧ (boundary work s).ps = s.ps ∧ (boundary work s).ru = s.ru ∧
    (boundary work s).ui = s.ui ∧ (boundary work s).mc = s.mc ∧ (boundary work s).cs = s.cs ∧
    (boundary work s).pending = s.pending := by
  have key : ∀ s' t, s' = s ∨ s' = s.nextOrder → CommitOnly s' t →
      t.supply = s.supply ∧ t.ps = s.ps ∧ t.ru = s.ru ∧ t.ui = s.ui ∧ t.mc = s.mc ∧ t.cs = s.cs ∧
      t.pending = s.pending := by
    rintro s' t (rfl | rfl) h <;> obtain ⟨a, b, c, d, e, f, _, g⟩ := h.keeps
    · exact ⟨a, b, c, d, e, f, g⟩
    · exact ⟨a, b, c, d, e, f, g⟩
  rcases boundary_cases work s with ⟨_, h⟩ | ⟨c, _, h | h⟩ <;> rw [h]
  · exact key _ _ (.inl rfl) (hw s)
  · exact key _ _ (.inr rfl) ((takeCommit_only c _).trans (hw _))
  · exact key _ _ (.inr rfl) ((hw _).trans (takeCommit_only c _))

/-- A boundary whose work leaves TB puts a pending commit's candidate set into service, and changes nothing else of TB (R143,
R145). -/
theorem boundary_tb {work : State → State} (hw : ∀ s, ReadingsOnly s (work s)) (s : State) :
    (s.tb.pendingCommit = none → (boundary work s).tb = s.tb) ∧
    (∀ c, s.tb.pendingCommit = some c →
      (boundary work s).tb = { s.tb with active := c, staged := {}, pendingCommit := none }) := by
  rcases boundary_cases work s with ⟨hn, h⟩ | ⟨c, hc, h | h⟩
  · exact ⟨fun _ => by rw [h]; exact (hw s).keeps.2.2.2.1, fun c hc => (by rw [hn] at hc; cases hc)⟩
  · refine ⟨fun hn => (by rw [hn] at hc; cases hc), fun d hd => ?_⟩
    rw [hc] at hd; cases hd
    rw [h, (hw _).keeps.2.2.2.1, takeCommit_tb]; rfl
  · refine ⟨fun hn => (by rw [hn] at hc; cases hc), fun d hd => ?_⟩
    rw [hc] at hd; cases hd
    rw [h, takeCommit_tb, (hw _).keeps.2.2.2.1]; rfl

theorem cycleStart_cycle (s : State) : CycleOnly s (cycleStart s) := by
  unfold cycleStart
  obtain ⟨a, _, _, d, _, f, g⟩ := boundary_keeps (fun s => (countDown_only s).commit)
    (s.setPs { s.ps with cycle := s.ps.cycle + 1, phase := .walking, position := none })
  exact ⟨a, d, f, g⟩

/-- A cycle start leaves PS walking from before the first row, under the next cycle number, with the timer running for the
period then active (R23 to R25). -/
theorem cycleStart_ps (s : State) :
    (cycleStart s).ps = { s.ps with
      cycle := s.ps.cycle + 1, phase := .walking, position := none
      timer := .running (cycleStart s).tb.active.general.cyclePeriod } := by
  unfold cycleStart
  have h := (boundary_keeps (fun s => (countDown_only s).commit)
    (s.setPs { s.ps with cycle := s.ps.cycle + 1, phase := .walking, position := none })).2.1
  simp only [State.setPs_ps, State.setPs_tb, h]

theorem stop_cycle (s : State) : CycleOnly s (stop s) := by
  unfold stop
  obtain ⟨a, _, _, d, _, f, g⟩ := boundary_keeps (fun s => (stopWork_only s).commit)
    (((breakSummary s).setPs { (breakSummary s).ps with phase := .halted, timer := .stopped, position := none }).setMc
      { (breakSummary s).mc with mode := .idle })
  have hb := (breakSummary_only s).keeps
  exact ⟨a.trans hb.1, d.trans hb.2.2.2.2.2.2.2.1, f.trans hb.2.2.2.2.2.2.2.2.2.1, g.trans hb.2.2.2.2.2.2.2.2.2.2.2⟩

/-- The stop leaves PS halted with its timer stopped, and the mode IDLE (R32). -/
theorem stop_ps_mc (s : State) :
    (stop s).ps = { s.ps with phase := .halted, timer := .stopped, position := none } ∧
    (stop s).mc = { s.mc with mode := .idle } := by
  unfold stop
  obtain ⟨_, b, _, _, e, _, _⟩ := boundary_keeps (fun s => (stopWork_only s).commit)
    (((breakSummary s).setPs { (breakSummary s).ps with phase := .halted, timer := .stopped, position := none }).setMc
      { (breakSummary s).mc with mode := .idle })
  have hb := (breakSummary_only s).keeps
  refine ⟨b.trans ?_, e.trans ?_⟩
  · simp [hb.2.2.1]
  · simp [hb.2.2.2.2.2.2.2.2.1]

/-- What a visit can do (R26, R27, R29, R154): the walk position moves to the row, and the row is passed over with at most
one skip count used, or a poll exchange is due, or the head of the Relay Queue goes in flight and its exchange is due. -/
theorem visitRow_cases (position : Nat) (row : PollRow) (s : State) :
    (∃ nodes, visitRow position row s =
      ((s.setPs { s.ps with position := some position }).setTi { s.ti with nodes := nodes }, false)) ∨
    (∃ x, visitRow position row s =
      ((s.setPs { s.ps with position := some position }).setTi { s.ti with exchange := some x }, true) ∧
      x.phase = .due ∧ x.kind = .poll) ∨
    (∃ x q rest, visitRow position row s =
      (((s.setPs { s.ps with position := some position }).setRu { s.ru with queue := rest, inFlight := some q }).setTi
        { s.ti with exchange := some x }, true) ∧
      x.phase = .due ∧ x.kind = .relay ∧ s.ru.queue = q :: rest ∧ s.ru.held < Config.relayResults) := by
  unfold visitRow
  cases row with
  | poll node replyTimeout acceptMarked =>
    simp only [visitPoll]
    split
    · exact .inl ⟨_, rfl⟩
    · split
      · exact .inl ⟨s.ti.nodes, rfl⟩
      · exact .inr (.inl ⟨_, rfl, rfl, rfl⟩)
  | relay =>
    show (∃ nodes, visitRelay _ = _) ∨ (∃ x, visitRelay _ = _ ∧ _) ∨ (∃ x q rest, visitRelay _ = _ ∧ _)
    unfold visitRelay
    split
    · exact .inl ⟨s.ti.nodes, rfl⟩
    · rename_i q rest hq
      split
      · rename_i hh
        exact .inr (.inr ⟨_, q, rest, rfl, rfl, rfl, hq, hh⟩)
      · exact .inl ⟨s.ti.nodes, rfl⟩

theorem visitRow_cycle (position : Nat) (row : PollRow) (s : State) : CycleOnly s (visitRow position row s).1 := by
  rcases visitRow_cases position row s with ⟨_, h⟩ | ⟨_, h, -⟩ | ⟨_, _, _, h, -⟩ <;> rw [h] <;> exact ⟨rfl, rfl, rfl, rfl⟩

theorem walkRows_cycle (rows : Keyed PollRow) (s : State) : CycleOnly s (walkRows rows s).1 := by
  induction rows generalizing s with
  | nil => exact CycleOnly.refl s
  | cons e rows ih =>
    obtain ⟨position, row⟩ := e
    have hv := visitRow_cycle position row s
    unfold walkRows
    split
    · rename_i s' heq; rw [heq] at hv; exact hv
    · rename_i s' heq; rw [heq] at hv; exact hv.trans (ih s')

theorem afterCompletion_cycle {overrun : State → State} (ho : ∀ s, CycleOnly s (overrun s)) (s : State) :
    CycleOnly s (afterCompletion overrun s) := by
  unfold afterCompletion
  split
  · exact stop_cycle s
  · split
    · exact CycleOnly.trans (t := s.setPs { s.ps with overruns := satSucc 255 s.ps.overruns }) ⟨rfl, rfl, rfl, rfl⟩ (ho _)
    · exact ⟨rfl, rfl, rfl, rfl⟩
    · exact ⟨rfl, rfl, rfl, rfl⟩

theorem cycleCompletion_cycle {overrun : State → State} (ho : ∀ s, CycleOnly s (overrun s)) (s : State) :
    CycleOnly s (cycleCompletion overrun s) := by
  unfold cycleCompletion
  have h1 : CycleOnly s (s.setPs { s.ps with position := none }) := ⟨rfl, rfl, rfl, rfl⟩
  exact (h1.trans (zoneCompletion_only _).pairs.readings.commit.cycle).trans (afterCompletion_cycle ho _)

theorem runWalk_cycle {overrun : State → State} (ho : ∀ s, CycleOnly s (overrun s)) (s : State) :
    CycleOnly s (runWalk overrun s) := by
  unfold runWalk
  have hw := walkRows_cycle s.rowsAhead s
  split
  · rename_i s' heq; rw [heq] at hw; exact hw
  · rename_i s' heq; rw [heq] at hw; exact hw.trans (cycleCompletion_cycle ho s')

theorem openCycle_cycle (s : State) : CycleOnly s (openCycle s) :=
  (cycleStart_cycle s).trans (runWalk_cycle CycleOnly.refl _)

theorem continueWalk_cycle (s : State) : CycleOnly s (continueWalk s) := runWalk_cycle openCycle_cycle s

/-! ### Exchanges -/

theorem completePoll_cycle (x : Exchange) (a b : Conclusion) (s : State) : CycleOnly s (completePoll x a b s) := by
  unfold completePoll
  exact CycleOnly.trans (t := s.setTi _) ⟨rfl, rfl, rfl, rfl⟩ (intakeEvent_only _ _).commit.cycle

theorem completeExchange_cycle (x : Exchange) (a b : Conclusion) (s : State) :
    CycleOnly s (completeExchange x a b s) := by
  unfold completeExchange
  split
  · exact completePoll_cycle x a b s
  · unfold completeRelay; dsimp only; split <;> exact ⟨rfl, rfl, rfl, rfl⟩

theorem settleExchange_cycle (x : Exchange) (s : State) : CycleOnly s (settleExchange x s) := by
  unfold settleExchange
  split
  · exact (completeExchange_cycle _ _ _ s).trans (continueWalk_cycle _)
  · exact ⟨rfl, rfl, rfl, rfl⟩

theorem whileListening_cycle (f : Exchange → Exchange) (s : State) : CycleOnly s (whileListening f s) := by
  unfold whileListening
  split
  · exact CycleOnly.refl s
  · split
    · exact settleExchange_cycle _ s
    · exact CycleOnly.refl s
    · exact CycleOnly.refl s

/-! ### Events and requests -/

/-- An event always answers a next state: its effect when the part is live, and nothing when it is not (R192). -/
theorem event_cases (f : State → State) (s : State) :
    (s.live = true ∧ event f s = .next (f s)) ∨ (s.live = false ∧ event f s = .next s) := by
  unfold event
  cases h : s.live
  · exact .inr ⟨rfl, rfl⟩
  · exact .inl ⟨rfl, rfl⟩

theorem event_live {f : State → State} {s : State} (h : s.live = true) : event f s = .next (f s) := by
  simp [event, h]

/-- The response of a handling leaves every block but UI as the request left it (R168). -/
theorem respond_only (address code : Byte) (ans : Answer) :
    respond address code ans = ans.state.setUi (respond address code ans).ui := rfl

end Sys2Proof.Machine
end

