-- ==== Sys2Proof/Laws/Image.lean ====
section
/-! SUPPORT. What the reading of a table's entries from an image comes to (R182): it fails exactly when an entry fails, and
otherwise gives the rows that stand there. -/

namespace Sys2Proof.Machine

variable {α : Type}

/-- The number in the byte at a place of the memory, 0 behind its end. -/
def byteAt (bs : List Byte) (i : Nat) : Nat := (bs.getD i 0).toNat

theorem byteAt_drop (bs : List Byte) (n i : Nat) : byteAt (bs.drop n) i = byteAt bs (n + i) := by
  simp [byteAt, List.getD_eq_getElem?_getD]

/-- The entry at a place fails: its op byte is not PUT, its index is below the least admitted or outside the table, or its row
is not well formed (R182). -/
def entryFailsAt (size cap : Nat) (ofBytes : List Byte → Option α) (bs : List Byte) (low place : Nat) : Prop :=
  byteAt bs place ≠ 1 ∨ byteAt bs (place + 1) < low ∨ cap ≤ byteAt bs (place + 1) ∨
    ofBytes ((bs.drop (place + 2)).take size) = none

theorem entryFailsAt_drop (size cap : Nat) (ofBytes : List Byte → Option α) (bs : List Byte) (n low place : Nat) :
    entryFailsAt size cap ofBytes (bs.drop n) low place ↔ entryFailsAt size cap ofBytes bs low (n + place) := by
  unfold entryFailsAt
  rw [byteAt_drop, byteAt_drop, List.drop_drop]
  simp only [Nat.add_assoc]

/-- One entry is read, and then those behind it, whose indices lie above its index. -/
theorem readEntries_succ (size cap : Nat) (ofBytes : List Byte → Option α) (n low : Nat) (bs : List Byte) (h : 2 ≤ bs.length) :
    (entryFailsAt size cap ofBytes bs low 0 → readEntries size cap ofBytes (n + 1) low bs = none) ∧
    (∀ r, ¬ entryFailsAt size cap ofBytes bs low 0 → ofBytes ((bs.drop 2).take size) = some r →
      readEntries size cap ofBytes (n + 1) low bs =
        (readEntries size cap ofBytes n (byteAt bs 1 + 1) (bs.drop (size + 2))).map
          fun p => ((byteAt bs 1, r) :: p.1, p.2)) := by
  obtain ⟨op, index, rest, rfl⟩ : ∃ op index rest, bs = op :: index :: rest := by
    match bs, h with
    | op :: index :: rest, _ => exact ⟨op, index, rest, rfl⟩
  have h0 : byteAt (op :: index :: rest) 0 = op.toNat := rfl
  have h1 : byteAt (op :: index :: rest) 1 = index.toNat := rfl
  have hd : (op :: index :: rest).drop (size + 2) = rest.drop size := rfl
  simp only [entryFailsAt, Nat.zero_add, h0, h1, hd, List.drop_succ_cons, List.drop_zero, readEntries]
  refine ⟨fun hf => ?_, fun r hg hr => ?_⟩
  · split
    · rename_i hc
      rcases hf with hf | hf | hf | hf
      · exact absurd hc.1 hf
      · omega
      · omega
      · rw [hf]
    · rfl
  · push Not at hg
    rw [if_pos ⟨hg.1, hg.2.1, hg.2.2.1⟩, hr]

/-- What the reading of `n` entries comes to: it fails exactly when one of them fails, where each index must lie above the one
before it; otherwise the rows that stand there are read, and the bytes behind them are left. -/
theorem readEntries_spec (size cap : Nat) (ofBytes : List Byte → Option α) : ∀ (n low : Nat) (bs : List Byte),
    n * (size + 2) ≤ bs.length →
    (readEntries size cap ofBytes n low bs = none ↔ ∃ i < n, entryFailsAt size cap ofBytes bs
      (if i = 0 then low else byteAt bs ((i - 1) * (size + 2) + 1) + 1) (i * (size + 2))) ∧
    (∀ t rest, readEntries size cap ofBytes n low bs = some (t, rest) →
      rest = bs.drop (n * (size + 2)) ∧ t.length = n ∧
      ∀ i k r, t[i]? = some (k, r) →
        k = byteAt bs (i * (size + 2) + 1) ∧ ofBytes ((bs.drop (i * (size + 2) + 2)).take size) = some r) := by
  intro n
  induction n with
  | zero => 
    intro low bs _
    refine ⟨by simp [readEntries], ?_⟩
    intro t rest h
    cases h
    simp
  | succ n ih =>
    intro low bs hl
    have hlen : n * (size + 2) + (size + 2) ≤ bs.length := by rw [← Nat.succ_mul]; exact hl
    obtain ⟨hfail, hgo⟩ := readEntries_succ size cap ofBytes n low bs (by omega)
    obtain ⟨ihn, ihs⟩ := ih (byteAt bs 1 + 1) (bs.drop (size + 2)) (by rw [List.length_drop]; omega)
    have shift : ∀ i, entryFailsAt size cap ofBytes (bs.drop (size + 2))
        (if i = 0 then byteAt bs 1 + 1 else byteAt (bs.drop (size + 2)) ((i - 1) * (size + 2) + 1) + 1) (i * (size + 2)) ↔
        entryFailsAt size cap ofBytes bs (byteAt bs (i * (size + 2) + 1) + 1) ((i + 1) * (size + 2)) := by
      intro i
      rw [entryFailsAt_drop, Nat.add_comm (size + 2), ← Nat.succ_mul]
      rcases i with - | i
      · simp
      · rw [if_neg (by omega), byteAt_drop]
        have : size + 2 + ((i + 1 - 1) * (size + 2) + 1) = (i + 1) * (size + 2) + 1 := by
          rw [Nat.add_sub_cancel, Nat.succ_mul]; omega
        rw [this]
    by_cases hf : entryFailsAt size cap ofBytes bs low 0
    · rw [hfail hf]
      refine ⟨⟨fun _ => ⟨0, by omega, by simpa using hf⟩, fun _ => rfl⟩, fun t rest h => ?_⟩
      cases h
    · obtain ⟨r, hr⟩ : ∃ r, ofBytes ((bs.drop 2).take size) = some r := by
        cases ho : ofBytes ((bs.drop 2).take size) with
        | some r => exact ⟨r, rfl⟩
        | none => exact absurd (.inr (.inr (.inr ho))) hf
      rw [hgo r hf hr]
      refine ⟨?_, fun t rest h => ?_⟩
      · rw [Option.map_eq_none_iff, ihn]
        constructor
        · rintro ⟨i, hi, h⟩
          exact ⟨i + 1, by omega, by rw [if_neg (by omega), Nat.add_sub_cancel]; exact (shift i).1 h⟩
        · rintro ⟨i, hi, h⟩
          rcases i with - | i
          · exact absurd (by simpa using h) hf
          · refine ⟨i, by omega, (shift i).2 ?_⟩
            rw [if_neg (by omega), Nat.add_sub_cancel] at h
            exact h
      · rw [Option.map_eq_some_iff] at h
        obtain ⟨⟨t', rest'⟩, hrec, he⟩ := h
        cases he
        obtain ⟨h1, h2, h3⟩ := ihs t' _ hrec
        refine ⟨?_, by simp [h2], fun i k q hi => ?_⟩
        · rw [h1, List.drop_drop, Nat.succ_mul, Nat.add_comm]
        · rcases i with - | i
          · simp only [List.getElem?_cons_zero, Option.some.injEq, Prod.mk.injEq] at hi
            obtain ⟨rfl, rfl⟩ := hi
            exact ⟨by simp, by simpa using hr⟩
          · rw [List.getElem?_cons_succ] at hi
            obtain ⟨ha, hb⟩ := h3 i k q hi
            rw [byteAt_drop] at ha
            rw [List.drop_drop] at hb
            refine ⟨?_, ?_⟩
            · rw [ha, Nat.succ_mul]; congr 1; omega
            · rw [Nat.succ_mul, ← hb]; congr 3; omega

end Sys2Proof.Machine
end

