-- ==== Sys2Proof/Laws/Lines.lean ====
section
/-! SUPPORT. What a byte becomes on a line and back: its bits as they are sent (R1), and what a receiver takes from its samples
of them (R6). -/

namespace Sys2Proof.Machine

/-- The bits of a byte on a line: space, the data bits with the least significant first, mark (R1). -/
theorem lineWord_getLsbD (b : Byte) (k : Nat) :
    (lineWord b).getLsbD k = if k = 0 then false else if k ≤ 8 then b.getLsbD (k - 1) else decide (k = 9) := by
  have h : (lineWord b).getLsbD k = (1#1 ++ b ++ 0#1 : BitVec (1 + 8 + 1)).getLsbD k := rfl
  rw [h, BitVec.getLsbD_append, BitVec.getLsbD_append]
  rcases k with _ | k
  · simp
  · by_cases hk : k < 8
    · simp [hk, show k + 1 ≤ 8 by omega]
    · simp [hk, show ¬ k + 1 ≤ 8 by omega, show ¬ k + 1 < 1 by omega]
      by_cases h8 : k = 8 <;> (simp [h8]; try omega)

/-- The data bits of a byte on a line are the byte (R1). -/
@[simp] theorem lineWord_data (b : Byte) : (lineWord b).extractLsb' 1 8 = b := by
  apply BitVec.eq_of_getLsbD_eq
  intro i hi
  simp only [BitVec.getLsbD_extractLsb', hi, decide_true, Bool.true_and, lineWord_getLsbD]
  simp [show 1 + i ≤ 8 by omega]

/-- A byte whose samples are the bits sent is received as it was sent (R1, R6). -/
@[simp] theorem receivedByte_lineWord (b : Byte) :
    receivedByte { early := lineWord b, late := lineWord b } = { value := b, doubtful := false, framing := false } := by
  simp [receivedByte, lineWord_getLsbD]

@[simp] theorem receivedActivity_idle (x : LineSamples) : (receivedActivity x).idle = x.idle := rfl
@[simp] theorem receivedActivity_byte (x : LineSamples) : (receivedActivity x).byte = x.byte.map receivedByte := rfl

end Sys2Proof.Machine
end

