-- ==== Sys2Proof/Laws/Receiver.lean ====
section
/-! SUPPORT. No owner of a request reads or writes the state of the uplink receiver, so a request is handled from RECEIVING
exactly as it would be from READY, and what a frame's events come to can be said of the state before its start bit. -/

namespace Sys2Proof.Machine

/-- The state with the receiver in another state. -/
def State.withReceiver (s : State) (x : Receiver) : State := s.setUi { s.ui with receiver := x }

/-- An answer with its state's receiver in another state. -/
def Answer.withReceiver (a : Answer) (x : Receiver) : Answer := { a with state := a.state.withReceiver x }

theorem startBit_eq (s : State) :
    startBit s = if s.ui.receiver = .ready then s.withReceiver .receiving else s := rfl

section
variable (s : State) (x : Receiver)
@[simp] theorem withReceiver_ti : (s.withReceiver x).ti = s.ti := rfl
@[simp] theorem withReceiver_ps : (s.withReceiver x).ps = s.ps := rfl
@[simp] theorem withReceiver_si : (s.withReceiver x).si = s.si := rfl
@[simp] theorem withReceiver_zm : (s.withReceiver x).zm = s.zm := rfl
@[simp] theorem withReceiver_tb : (s.withReceiver x).tb = s.tb := rfl
@[simp] theorem withReceiver_ru : (s.withReceiver x).ru = s.ru := rfl
@[simp] theorem withReceiver_mc : (s.withReceiver x).mc = s.mc := rfl
@[simp] theorem withReceiver_cs : (s.withReceiver x).cs = s.cs := rfl
end

theorem closeSummary_withReceiver (s : State) (x : Receiver) :
    closeSummary (s.withReceiver x) = (closeSummary s).withReceiver x := by
  unfold closeSummary
  by_cases h : 0 < s.zm.summary.held <;> simp [h] <;> rfl

theorem takeBatch_withReceiver (position : Nat) (s : State) (x : Receiver) :
    takeBatch position (s.withReceiver x) = (takeBatch position s).withReceiver x := by
  unfold takeBatch
  simp only [withReceiver_zm, closeSummary_withReceiver]
  split <;> rfl

theorem summaryNotOpen_withReceiver (s : State) (x : Receiver) :
    summaryNotOpen (s.withReceiver x) = (summaryNotOpen s).withReceiver x := by
  unfold summaryNotOpen
  by_cases h : s.zm.summary.broken <;> simp [h] <;> rfl

/-- No owner reads the receiver, and each leaves it as it was (R168). -/
theorem serve_withReceiver (r : Request) (payload : List Byte) (s : State) (x : Receiver) :
    r.serve payload (s.withReceiver x) = (r.serve payload s).withReceiver x := by
  cases r <;> simp only [Request.serve]
  case status => rfl
  case counters => rfl
  case ident => rfl
  case restart => rfl
  case forceList => rfl
  case takeAlerts => rfl
  case mode => unfold serveMode; (repeat' split) <;> first | rfl | (simp_all; done) | (simp_all; rfl)
  case save =>
    unfold serveSave
    by_cases h : s.tb.pendingCommit.isSome ∨ s.cs.saveWrite.isSome <;> simp [h] <;> rfl
  case lineReport => unfold serveLineReport; (repeat' split) <;> rfl
  case skip => unfold serveSkip; (repeat' split) <;> first | rfl | (simp_all; done) | (simp_all; rfl)
  case readReadings => unfold serveReadReadings; (repeat' split) <;> rfl
  case forceSet =>
    unfold serveForceSet
    simp only [withReceiver_si, withReceiver_tb]
    (repeat' split) <;> first | rfl | (simp [*]; rfl)
  case forceClear => unfold serveForceClear; (repeat' split) <;> first | rfl | (simp_all; done) | (simp_all; rfl)
  case readPairs => unfold serveReadPairs; (repeat' split) <;> rfl
  case summaryOpen =>
    unfold serveSummaryOpen
    cases h : s.zm.summary.isOpen
    · simp only [withReceiver_zm, h, Bool.false_eq_true, if_false]
      rw [show ∀ z, (s.withReceiver x).setZm z = (s.setZm z).withReceiver x from fun _ => rfl, takeBatch_withReceiver]
      rfl
    · simp [h]; rfl
  case summaryNext =>
    unfold serveSummaryNext
    cases h : s.zm.summary.isOpen <;>
      simp [h, takeBatch_withReceiver, summaryNotOpen_withReceiver]
    all_goals rfl
  case summaryClose =>
    unfold serveSummaryClose
    cases h : s.zm.summary.isOpen <;>
      simp [h, closeSummary_withReceiver, summaryNotOpen_withReceiver]
    all_goals rfl
  case loadOpen =>
    unfold serveLoadOpen
    simp only [withReceiver_tb]
    (repeat' split) <;> first | rfl | (simp [*]; rfl)
  case loadRows =>
    unfold serveLoadRows
    simp only [withReceiver_tb]
    (repeat' split) <;> rfl
  case loadClose => unfold serveLoadClose; cases h : s.tb.load <;> simp [h] <;> rfl
  case loadAbandon => unfold serveLoadAbandon; cases h : s.tb.load <;> simp [h] <;> rfl
  case commit =>
    unfold serveCommit
    cases h1 : s.tb.pendingCommit with
    | some c => simp [h1]; rfl
    | none =>
      by_cases h2 : s.cs.saveWrite.isSome ∨ s.tb.load.isSome
      · simp [h1, h2]; rfl
      · by_cases h3 : s.tb.staged.readySet = 0
        · simp [h1, h2, h3]; rfl
        · cases h4 : crossCheck s.tb.candidate with
          | some e => simp [h1, h2, h3, h4]; rfl
          | none => by_cases h5 : s.mc.mode = .idle <;> simp [h1, h2, h3, h4, h5] <;> rfl
  case readTable =>
    unfold serveReadTable
    simp only [show readCopy (s.withReceiver x) = readCopy s from rfl]
    (repeat' split) <;> rfl
  case relaySend =>
    unfold serveRelaySend
    split
    · rename_i tag node timeout bytes
      by_cases h1 : bytes = [] ∨ 32 < bytes.length
      · simp only [h1, if_true]; rfl
      by_cases h2 : nodeInRange node.toNat = false ∨ timeoutInRange (10 * timeout.toNat) = false
      · simp only [h1, h2, if_true, if_false]; rfl
      by_cases h3 : s.mc.mode = .idle
      · simp [h1, h2, h3]; rfl
      by_cases h4 : hasRelayRow s.tb.active.poll = false
      · simp [h1, h2, h3, h4]; rfl
      by_cases h5 : s.ru.place tag.toNat = .nowhere
      · by_cases h6 : Config.relayQueue ≤ s.ru.queue.length <;> simp [h1, h2, h3, h4, h5, h6] <;> rfl
      · simp [h1, h2, h3, h4, h5]; rfl
    · rfl
  case relayCollect => unfold serveRelayCollect; (repeat' split) <;> first | rfl | (simp_all; done) | (simp_all; rfl)

/-- The handling of a request sets the receiver itself, so it does not depend on what the receiver was (R168). -/
theorem handleRequest_withReceiver (address code : Byte) (r : Option Request) (payload : List Byte) (s : State)
    (x : Receiver) : handleRequest address code r payload (s.withReceiver x) = handleRequest address code r payload s := by
  have key : judgeRequest r payload (s.withReceiver x) = (judgeRequest r payload s).withReceiver x := by
    unfold judgeRequest
    split
    · rfl
    · rename_i r
      rw [serve_withReceiver]
      split <;> rfl
  unfold handleRequest
  rw [key]
  rfl

/-! ### What befalls a frame that is received -/

theorem receiving_taken {s : State} (h : s.ui.receiver = .ready ∨ s.ui.receiver = .receiving) (f : State → State) :
    receiving f s = f (s.withReceiver .receiving) := by
  have e : startBit s = s.withReceiver .receiving := by
    rcases h with h | h
    · simp [startBit_eq, h]
    · have : s.withReceiver .receiving = s := by unfold State.withReceiver; rw [← h]; rfl
      simp [startBit_eq, h, this]
  simp [receiving, e, State.withReceiver]

theorem receiving_not_taken {s : State} (h1 : s.ui.receiver ≠ .ready) (h2 : s.ui.receiver ≠ .receiving)
    (f : State → State) : receiving f s = s := by
  simp [receiving, startBit_eq, h1, h2]

/-- A defect in READY or RECEIVING discards and counts the frame (R166), and in any other state nothing changes. -/
theorem frameDefect_cases (s : State) :
    ((s.ui.receiver = .ready ∨ s.ui.receiver = .receiving) ∧ receiving discardFrame s = discardFrame s) ∨
    (s.ui.receiver ≠ .ready ∧ s.ui.receiver ≠ .receiving ∧ receiving discardFrame s = s) := by
  by_cases h : s.ui.receiver = .ready ∨ s.ui.receiver = .receiving
  · refine .inl ⟨h, ?_⟩
    rw [receiving_taken h]
    unfold discardFrame UplinkState.countError State.withReceiver
    by_cases he : s.ui.errors < 127 <;> simp [he]
  · exact .inr ⟨fun e => h (.inl e), fun e => h (.inr e),
      receiving_not_taken (fun e => h (.inl e)) (fun e => h (.inr e)) _⟩

/-- What a complete frame with a right check can do (R166, R167): nothing where no frame is taken, a length defect, the
handling of a request, or the passing over of another station's. -/
theorem frameArrives_cases (address code : Byte) (r : Option Request) (payload : List Byte) (s : State) :
    (s.ui.receiver ≠ .ready ∧ s.ui.receiver ≠ .receiving ∧ frameArrives address code r payload s = s) ∨
    ((s.ui.receiver = .ready ∨ s.ui.receiver = .receiving) ∧ 240 < payload.length ∧
      frameArrives address code r payload s = discardFrame s) ∨
    ((s.ui.receiver = .ready ∨ s.ui.receiver = .receiving) ∧ payload.length ≤ 240 ∧ addressed s address = true ∧
      frameArrives address code r payload s = handleRequest address code r payload s) ∨
    ((s.ui.receiver = .ready ∨ s.ui.receiver = .receiving) ∧ payload.length ≤ 240 ∧ addressed s address = false ∧
      frameArrives address code r payload s = s.setUi { s.ui with receiver := .other }) := by
  by_cases h : s.ui.receiver = .ready ∨ s.ui.receiver = .receiving
  · right
    unfold frameArrives
    rw [receiving_taken h]
    unfold judgeFrame
    by_cases hp : 240 < payload.length
    · refine .inl ⟨h, hp, ?_⟩
      rw [if_pos hp, ← receiving_taken h discardFrame]
      rcases frameDefect_cases s with ⟨_, e⟩ | ⟨n1, n2, _⟩
      · exact e
      · rcases h with h | h <;> contradiction
    · rw [if_neg hp]
      have ea : addressed (s.withReceiver .receiving) address = addressed s address := rfl
      rw [ea]
      cases ha : addressed s address
      · exact .inr (.inr ⟨h, by omega, rfl, rfl⟩)
      · exact .inr (.inl ⟨h, by omega, rfl, by rw [if_pos rfl, handleRequest_withReceiver]⟩)
  · exact .inl ⟨fun e => h (.inl e), fun e => h (.inr e),
      receiving_not_taken (fun e => h (.inl e)) (fun e => h (.inr e)) _⟩

end Sys2Proof.Machine
end

