-- ==== Sys2Proof/Laws/Requests.lean ====
section
/-! SUPPORT. What a request that is heard comes to, how an uplink error is counted, and what a run of LOAD_ROWS entries does. -/

namespace Sys2Proof.Machine

/-- Every request is its frame's arrival under its code. -/
theorem exec_command (r : Request) (a : Byte) (p : List Byte) (s : State) :
    exec (r.command a p) s = event (frameArrives a r.code (some r) p) s := by
  cases r <;> rfl

theorem Request.ofCode_code (r : Request) : Request.ofCode r.code = some r := by
  cases r <;> rfl

theorem TableId.ofCode_byte (t : TableId) : TableId.ofCode (byte t.code).toNat = some t := by
  cases t <;> rfl

theorem LoadMethod.ofCode_byte (m : LoadMethod) : LoadMethod.ofCode (byte m.code).toNat = some m := by
  cases m <;> rfl

/-- A frame that is heard is handled (R168). -/
theorem frameArrives_heard {s : State} {a : Byte} (h : Heard s a) (code : Byte) (r : Option Request) (p : List Byte)
    (hp : p.length ≤ 240) : event (frameArrives a code r p) s = .next (handleRequest a code r p s) := by
  obtain ⟨h1, h2, h3⟩ := h
  rcases frameArrives_cases a code r p s with ⟨n1, n2, _⟩ | ⟨_, n, _⟩ | ⟨_, _, _, e⟩ | ⟨_, _, n, _⟩
  · rcases h2 with h2 | h2 <;> contradiction
  · omega
  · simp [event, h1, e]
  · simp [addressed, h3] at n

/-- A request that is heard, whose length fits and which is not a MODE, leaves its owner's answer fixed as the response. -/
theorem exec_request (r : Request) {s : State} {a : Byte} (h : Heard s a) (p : List Byte)
    (fit : r.lengthFits p.length = true) (hp : p.length ≤ 240) (hne : r ≠ .mode) :
    exec (r.command a p) s = .next (respond a r.code (r.serve p s)) := by
  rw [exec_command, frameArrives_heard h _ _ _ hp]
  simp [handleRequest, judgeRequest, fit, Request.follow, hne]

/-- The count of an uplink error (R173) and the receiver after it. -/
theorem discardFrame_eq (s : State) : discardFrame s = s.setUi { s.ui with
    receiver := .waitIdle
    errors := min 127 (s.ui.errors + 1)
    overflow := s.ui.overflow || decide (127 ≤ s.ui.errors) } := by
  unfold discardFrame UplinkState.countError
  split
  · rw [Nat.min_eq_right (by omega)]; simp; rw [decide_eq_false (by omega)]; simp
  · rw [Nat.min_eq_left (by omega)]; simp; rw [decide_eq_true (by omega)]; simp

/-- The close of a summary read sequence (R126). -/
theorem closeSummary_eq (s : State) : closeSummary s = s.setZm { s.zm with
    bank := (if 0 < s.zm.summary.held then { publicationCycle := some s.ps.cycle, records := s.zm.zones } else s.zm.bank : Bank)
    summary := { s.zm.summary with isOpen := false, nextRecord := 0, held := 0 } } := by
  unfold closeSummary publish
  split <;> simp_all

/-- Entries that all apply are applied in the order carried (R135). -/
theorem applyEntries_ok (es : List (List Byte)) : ∀ (k : Nat) (w r : TableRows),
    es.foldlM TableRows.applyEntry w = some r → w.applyEntries k es = .ok r := by
  induction es with
  | nil => intro k w r hh; simp at hh; simp [TableRows.applyEntries, hh]
  | cons e es ih =>
    intro k w r hh
    simp [List.foldlM_cons, Option.bind_eq_some_iff] at hh
    obtain ⟨w', h3, h4⟩ := hh
    simp [TableRows.applyEntries, h3, ih _ _ _ h4]

/-- The first entry that fails gives its position (R135). -/
theorem applyEntries_error (es : List (List Byte)) (e : List Byte) (rest : List (List Byte)) :
    ∀ (k : Nat) (w r : TableRows), es.foldlM TableRows.applyEntry w = some r → r.applyEntry e = none →
      w.applyEntries k (es ++ e :: rest) = .error (k + es.length) := by
  induction es with
  | nil => intro k w r hh h2; simp at hh; simp [TableRows.applyEntries, hh, h2]
  | cons e' es ih =>
    intro k w r hh h2
    simp [List.foldlM_cons, Option.bind_eq_some_iff] at hh
    obtain ⟨w', h3, h4⟩ := hh
    simp [TableRows.applyEntries, h3, ih _ _ _ h4 h2]
    omega

end Sys2Proof.Machine
end

