-- ==== Sys2Proof/Laws/Tables.lean ====
section
/-! SUPPORT. What the two searches of the cross checks find (R141): nothing, or the lowest index that breaks the check; and the
nodes of the POLL rows that the checks read. -/

namespace Sys2Proof.Machine

variable {α κ : Type}

/-- In the canonical form the rows behind the first stand at higher indices. -/
theorem Keyed.lt_of_get_tail {j : Nat} {w : α} {t : Keyed α} (hw : Keyed.wf ((j, w) :: t)) {i : Nat} {r : α}
    (h : t.get i = some r) : j < i := by
  cases hw with
  | cons hlt _ => exact hlt _ (Keyed.mem_of_get h)

/-- The search for a row that breaks a condition finds none exactly when every row meets it, and otherwise the lowest index
whose row does not. -/
theorem firstBreaking_spec (ok : α → Bool) {t : Keyed α} (hw : Keyed.wf t) :
    (firstBreaking ok t = none ↔ ∀ i r, t.get i = some r → ok r = true) ∧
    (∀ i, firstBreaking ok t = some i ↔
      (∃ r, t.get i = some r ∧ ok r = false) ∧ ∀ j, j < i → ∀ q, t.get j = some q → ok q = true) := by
  induction t with
  | nil => simp [firstBreaking]
  | cons e t ih =>
    obtain ⟨k, v⟩ := e
    have hlt : ∀ i r, Keyed.get t i = some r → k < i := fun i r h => Keyed.lt_of_get_tail hw h
    cases hw with
    | cons _ hw =>
      obtain ⟨ihn, ihs⟩ := ih hw
      unfold firstBreaking
      by_cases hv : ok v = true
      · rw [if_pos hv]
        refine ⟨ihn.trans ⟨fun h i r hr => ?_, fun h i r hr => ?_⟩, fun i => (ihs i).trans ⟨?_, ?_⟩⟩
        · rw [Keyed.get_cons] at hr
          split at hr
          · cases hr; exact hv
          · exact h i r hr
        · exact h i r (by rw [Keyed.get_cons, if_neg (by have := hlt i r hr; omega)]; exact hr)
        · rintro ⟨⟨r, hr, hb⟩, hl⟩
          refine ⟨⟨r, by rw [Keyed.get_cons, if_neg (by have := hlt i r hr; omega)]; exact hr, hb⟩, fun j hj q hq => ?_⟩
          rw [Keyed.get_cons] at hq
          split at hq
          · cases hq; exact hv
          · exact hl j hj q hq
        · rintro ⟨⟨r, hr, hb⟩, hl⟩
          rw [Keyed.get_cons] at hr
          split at hr
          · cases hr; rw [hv] at hb; cases hb
          · refine ⟨⟨r, hr, hb⟩, fun j hj q hq => hl j hj q ?_⟩
            rw [Keyed.get_cons, if_neg (by have := hlt j q hq; omega)]; exact hq
      · have hv' : ok v = false := by simpa using hv
        rw [if_neg hv]
        refine ⟨⟨fun h => (by cases h), fun h => absurd (h k v (by simp [Keyed.get_cons])) hv⟩, fun i => ⟨?_, ?_⟩⟩
        · intro h
          cases h
          refine ⟨⟨v, by simp [Keyed.get_cons], hv'⟩, fun j hj q hq => ?_⟩
          rw [Keyed.get_cons, if_neg (by omega)] at hq
          have := hlt j q hq; omega
        · rintro ⟨⟨r, hr, hb⟩, hl⟩
          rw [Keyed.get_cons] at hr
          split at hr
          · subst_vars; rfl
          · have := hlt i r hr
            exact absurd (hl k this v (by simp [Keyed.get_cons])) hv

/-- The search for a key that repeats one of a lower index, or one of those seen, finds none exactly when no key does, and
otherwise the lowest index whose key does. -/
theorem firstRepeat_spec [DecidableEq κ] {t : Keyed κ} (hw : Keyed.wf t) : ∀ seen : List κ,
    (firstRepeat seen t = none ↔ ∀ i x, t.get i = some x → x ∉ seen ∧ ∀ j, j < i → t.get j ≠ some x) ∧
    (∀ i, firstRepeat seen t = some i ↔
      (∃ x, t.get i = some x ∧ (x ∈ seen ∨ ∃ j, j < i ∧ t.get j = some x)) ∧
      ∀ k, k < i → ∀ y, t.get k = some y → y ∉ seen ∧ ∀ j, j < k → t.get j ≠ some y) := by
  induction t with
  | nil => simp [firstRepeat]
  | cons e t ih =>
    intro seen
    obtain ⟨k, v⟩ := e
    have hlt : ∀ i r, Keyed.get t i = some r → k < i := fun i r h => Keyed.lt_of_get_tail hw h
    have hk : Keyed.get ((k, v) :: t) k = some v := by simp [Keyed.get_cons]
    have hi : ∀ i x, i ≠ k → (Keyed.get ((k, v) :: t) i = some x ↔ Keyed.get t i = some x) := fun i x h => by
      rw [Keyed.get_cons, if_neg (by omega)]
    cases hw with
    | cons _ hw =>
      obtain ⟨ihn, ihs⟩ := ih hw (v :: seen)
      have fresh : v ∉ seen → ∀ i x, i ≠ k →
          ((Keyed.get ((k, v) :: t) i = some x → x ∉ seen ∧ ∀ j, j < i → Keyed.get ((k, v) :: t) j ≠ some x) ↔
            (Keyed.get t i = some x → x ∉ v :: seen ∧ ∀ j, j < i → Keyed.get t j ≠ some x)) := by
        intro hv i x hik
        rw [hi i x hik]
        refine imp_congr_right fun hx => ?_
        have hki := hlt i x hx
        simp only [List.mem_cons, not_or]
        refine ⟨fun ⟨h1, h2⟩ => ⟨⟨?_, h1⟩, fun j hj hg => ?_⟩, fun ⟨⟨h1, h2⟩, h3⟩ => ⟨h2, fun j hj hg => ?_⟩⟩
        · rintro rfl; exact h2 k hki hk
        · have := hlt j x hg; exact h2 j hj ((hi j x (by omega)).2 hg)
        · by_cases hjk : j = k
          · subst hjk; rw [hk] at hg; cases hg; exact h1 rfl
          · exact h3 j hj ((hi j x hjk).1 hg)
      unfold firstRepeat
      by_cases hv : v ∈ seen
      · rw [if_pos hv]
        refine ⟨⟨fun h => (by cases h), fun h => absurd hv (h k v hk).1⟩, fun i => ⟨?_, ?_⟩⟩
        · intro h; cases h
          refine ⟨⟨v, hk, .inl hv⟩, fun j hj q hq => ?_⟩
          have := hlt j q ((hi j q (by omega)).1 hq); omega
        · rintro ⟨⟨r, hr, _⟩, hl⟩
          by_cases hik : i = k
          · rw [hik]
          · have := hlt i r ((hi i r hik).1 hr)
            exact absurd hv (hl k this v hk).1
      · rw [if_neg hv]
        have first : ∀ x, Keyed.get ((k, v) :: t) k = some x →
            x ∉ seen ∧ ∀ j, j < k → Keyed.get ((k, v) :: t) j ≠ some x := by
          intro x hx
          rw [hk] at hx; cases hx
          refine ⟨hv, fun j hj hg => ?_⟩
          have := hlt j v ((hi j v (by omega)).1 hg); omega
        refine ⟨ihn.trans ⟨fun h i x => ?_, fun h i x hx => ?_⟩, fun i => (ihs i).trans ⟨?_, ?_⟩⟩
        · by_cases hik : i = k
          · rw [hik]; exact first x
          · exact (fresh hv i x hik).2 (h i x)
        · exact (fresh hv i x (by have := hlt i x hx; omega)).1 (h i x) hx
        · rintro ⟨⟨x, hx, hr⟩, hl⟩
          have hki := hlt i x hx
          refine ⟨⟨x, (hi i x (by omega)).2 hx, ?_⟩, fun j hj y => ?_⟩
          · rcases hr with hr | ⟨j, hj, hg⟩
            · rcases List.mem_cons.1 hr with rfl | hr
              · exact .inr ⟨k, hki, hk⟩
              · exact .inl hr
            · exact .inr ⟨j, hj, (hi j x (by have := hlt j x hg; omega)).2 hg⟩
          · by_cases hjk : j = k
            · rw [hjk]; exact first y
            · exact (fresh hv j y hjk).2 (hl j hj y)
        · rintro ⟨⟨x, hx, hr⟩, hl⟩
          by_cases hik : i = k
          · rw [hik] at hx hr
            obtain ⟨h1, h2⟩ := first x hx
            rcases hr with hr | ⟨j, hj, hg⟩
            · exact absurd hr h1
            · exact absurd hg (h2 j hj)
          · have hx' := (hi i x hik).1 hx
            refine ⟨⟨x, hx', ?_⟩, fun j hj y hy => (fresh hv j y (by have := hlt j y hy; omega)).1 (hl j hj y) hy⟩
            rcases hr with hr | ⟨j, hj, hg⟩
            · exact .inl (List.mem_cons_of_mem _ hr)
            · by_cases hjk : j = k
              · rw [hjk, hk] at hg; cases hg; exact .inl (List.mem_cons_self ..)
              · exact .inr ⟨j, hj, (hi j x hjk).1 hg⟩

/-- The node at a position is that of the POLL row there. -/
theorem nodePositions_spec {rows : Keyed PollRow} (hw : Keyed.wf rows) :
    Keyed.wf (nodePositions rows) ∧
    ∀ i n, Keyed.get (nodePositions rows) i = some n ↔ (rows.get i).bind PollRow.node? = some n := by
  have hwf : Keyed.wf (nodePositions rows) := by
    unfold nodePositions Keyed.wf
    rw [List.pairwise_filterMap]
    refine hw.imp fun {a b} hab x hx y hy => ?_
    simp only [Option.map_eq_some_iff] at hx hy
    obtain ⟨_, _, rfl⟩ := hx
    obtain ⟨_, _, rfl⟩ := hy
    exact hab
  refine ⟨hwf, fun i n => ⟨fun h => ?_, fun h => ?_⟩⟩
  · have := Keyed.mem_of_get h
    simp only [nodePositions, List.mem_filterMap, Option.map_eq_some_iff] at this
    obtain ⟨⟨k, r⟩, hm, m, hn, he⟩ := this
    cases he
    rw [Keyed.get_of_mem hw hm]; exact hn
  · obtain ⟨r, hr, hn⟩ := Option.bind_eq_some_iff.1 h
    refine Keyed.get_of_mem hwf ?_
    simp only [nodePositions, List.mem_filterMap, Option.map_eq_some_iff]
    exact ⟨(i, r), Keyed.mem_of_get hr, n, hn, rfl⟩

/-- The nodes that are polled are those of the POLL rows. -/
theorem mem_pollNodes {rows : Keyed PollRow} (hw : Keyed.wf rows) (n : Nat) :
    n ∈ pollNodes rows ↔ ∃ i, (rows.get i).bind PollRow.node? = some n := by
  simp only [pollNodes, List.mem_filterMap]
  constructor
  · rintro ⟨⟨i, r⟩, hm, hn⟩; exact ⟨i, by rw [Keyed.get_of_mem hw hm]; exact hn⟩
  · rintro ⟨i, h⟩
    obtain ⟨r, hr, hn⟩ := Option.bind_eq_some_iff.1 h
    exact ⟨(i, r), Keyed.mem_of_get hr, hn⟩

end Sys2Proof.Machine
end

