-- ==== Sys2Proof/Tests/Slice0.lean ====
section
/-! SUPPORT. Tests: the terms that WellFormed refuses, the manual's worked examples (each cites its chapter's example), one
step of the commands on small states, and for each statement of Certificates/Slice0/Obligations.lean a witness that its
hypotheses can be met, clause by clause, at the ends of their ranges. -/

namespace Sys2Proof.Tests

open Sys2Proof Sys2Proof.Machine

set_option Elab.async false -- one theorem at a time: a compile of many at once holds too many threads

/-! ### Well-formed commands -/

theorem test_wellFormed_refuses_a_line_whose_frame_has_not_ended :
    (Instr.lineFrameEnds .a (driven [0xA5])).wellFormed = false ∧
    (Instr.lineFrameEnds .a (driven ((replyFrame 9 .empty).take 5))).wellFormed = false ∧
    (Instr.lineFrameEnds .a (driven (replyFrame 9 .empty))).wellFormed = true := by decide +kernel

theorem test_wellFormed_refuses_a_payload_of_241_bytes :
    (Instr.loadRows 1 (List.replicate 241 0)).wellFormed = false ∧
    (Instr.loadRows 1 (List.replicate 240 0)).wellFormed = true := by decide +kernel

theorem test_wellFormed_refuses_a_check_that_does_not_fail :
    (Instr.uplinkCheckFail 1 1 [] (check16 [1, 1, 0])).wellFormed = false ∧
    (Instr.uplinkCheckFail 1 1 [] (check16 [1, 1, 0] + 1)).wellFormed = true := by decide +kernel

theorem test_wellFormed_refuses_a_known_code_as_unknown :
    (Instr.unknownRequestCode 1 0x06 []).wellFormed = false ∧
    (Instr.unknownRequestCode 1 0x07 []).wellFormed = true := by decide

theorem test_wellFormed_refuses_an_interrupted_frame_of_245_bytes :
    (Instr.breakCharacter (List.replicate 245 0)).wellFormed = false ∧
    (Instr.breakCharacter (List.replicate 244 0)).wellFormed = true := by decide +kernel

theorem test_wellFormed_refuses_a_memory_of_3254_bytes :
    (Instr.saveWriteEnd (.corrupt (List.replicate 3254 0))).wellFormed = false ∧
    (Instr.saveWriteEnd (.corrupt (List.replicate 3253 0))).wellFormed = true := by decide +kernel

theorem test_no_word_spells_a_command : decodeTableWord 8 1 = none ∧ State.reset.withFetchWord 8 1 = State.reset := ⟨rfl, rfl⟩

/-! ### The manual's worked examples -/

/-- The three channels of Example 1 of chapter 3. -/
def channel10 : ProbeRow :=
  { node := 9, slot := 0, kind := .airTemp, rawLo := 12000, rawHi := 52000, refLo := -2000, refHi := 5000, freshCycles := 3 }

def channel11 : ProbeRow :=
  { node := 9, slot := 1, kind := .airRh, rawLo := 8000, rawHi := 56000, refLo := 0, refHi := 10000, freshCycles := 3 }

def channel12 : ProbeRow :=
  { node := 9, slot := 2, kind := .surfaceTemp, rawLo := 10000, rawHi := 50000, refLo := -1000, refHi := 4000, freshCycles := 3 }

/-- Chapter 3, Example 1. -/
theorem test_calibration_of_samples :
    (calibratedValue channel10 35714, calibratedQuality channel10 35714) = (2150, .good) ∧
    (calibratedValue channel11 34496, calibratedQuality channel11 34496) = (5520, .good) ∧
    (calibratedValue channel12 27440, calibratedQuality channel12 27440) = (1180, .good) ∧
    (calibratedValue channel11 8012, calibratedQuality channel11 8012) = (3, .good) ∧
    (calibratedValue channel11 7988, calibratedQuality channel11 7988) = (0, .clamped) ∧
    (calibratedValue channel11 60000, calibratedQuality channel11 60000) = (10000, .clamped) ∧
    (calibratedValue channel10 11999, calibratedQuality channel10 11999) = (-2000, .good) := by decide

/-- Chapter 5, Examples 1 and 2. -/
theorem test_margin_of_the_reference_case :
    compute { ta := 2150, rh := 5520, ts := 1180 } [] 4 = .computed 1209 (-29) none false ∧
    compute { ta := -250, rh := 8000, ts := -400 } [200, 150] 4 = .computed (-533) 133 none false := by decide +kernel

/-- Chapter 5, Examples 3 and 4. -/
theorem test_margin_at_the_limits_of_the_table :
    compute { ta := 4500, rh := 10000, ts := 6000 } [] 4 = .computed 4500 1500 none false ∧
    compute { ta := 4500, rh := 9999, ts := 0 } [] 4 = .computed 4500 (-4500) none false ∧
    compute { ta := -1000, rh := 9999, ts := 0 } [] 4 = .computed (-1000) 1000 none false ∧
    compute { ta := -1000, rh := 9998, ts := 0 } [] 4 = .computed (-1000) 1000 none true ∧
    compute { ta := 2150, rh := 0, ts := 6000 } [] 4 = .computed (-1000) 7000 none true ∧
    compute { ta := 2025, rh := 10000, ts := 0 } [] 4 = .computed 2025 (-2025) none false ∧
    compute { ta := 4500, rh := 5000, ts := 1400 } [] 4 = .computed 3202 (-1802) none false ∧
    compute { ta := 4501, rh := 5000, ts := 1400 } [] 4 = .airRange ∧
    compute { ta := -1001, rh := 5000, ts := 1400 } [] 4 = .airRange := by decide +kernel

/-- Chapter 5, Example 5. -/
theorem test_projections :
    projectedMargin 350 [420, 390] 4 = none ∧
    projectedMargin 310 [420, 390, 350] 4 = some 164 ∧
    projectedMargin 250 [420, 390, 350, 310, 280] 4 = some 114 ∧
    projectedMargin 200 [150, 160, 190] 4 = some 266 ∧
    projectedMargin 150 [200, 190, 160] 4 = some 84 ∧
    projectedMargin 400 [500, 460, 430, 410] 0 = none ∧
    projectedMargin (-8000) [7000, 2000, -3000] 32 = some (-9999) := by decide +kernel

/-- The history after each margin of a sequence. -/
def riskTrace (z : ZoneRow) (before : RiskState × Nat × Nat × List Int) (margins : List Int) : RiskState × Nat × Nat × List Int :=
  margins.foldl (fun p m =>
    let n := riskStep z p.1 p.2.1 p.2.2.1 m (projectedMargin m p.2.2.2 z.lookahead)
    (.judged n.1, n.2.1, n.2.2, pushMargin p.2.2.2 m)) before

/-- Chapter 6, Example 1. -/
theorem test_a_pair_rises_from_clear_to_watch :
    riskTrace {} (.unknown .new, 0, 0, []) [420, 390, 350, 310, 280] =
      (.judged .clear, 1, 0, [420, 390, 350, 310, 280]) ∧
    riskTrace {} (.judged .clear, 1, 0, [420, 390, 350, 310, 280]) [250] =
      (.judged .watch, 0, 0, [420, 390, 350, 310, 280, 250]) := by decide +kernel

/-- Chapter 6, Example 2. -/
theorem test_a_demotion_held_by_hysteresis :
    riskTrace {} (.judged .watch, 0, 0, [420, 390, 350, 310, 280, 250]) [320, 380, 400] =
      (.judged .watch, 0, 2, [390, 350, 310, 280, 250, 320, 380, 400]) ∧
    riskTrace {} (.judged .watch, 0, 2, [390, 350, 310, 280, 250, 320, 380, 400]) [410] =
      (.judged .clear, 0, 0, [350, 310, 280, 250, 320, 380, 400, 410]) := by decide +kernel

/-- Chapter 6, Example 3. -/
theorem test_a_projection_raises_a_pair_and_holds_it :
    riskTrace {} (.judged .clear, 0, 0, [600, 520, 440]) [360, 340] = (.judged .watch, 0, 0, [600, 520, 440, 360, 340]) ∧
    riskTrace {} (.judged .watch, 0, 0, [600, 520, 440, 360, 340]) [340, 355] =
      (.judged .watch, 0, 1, [600, 520, 440, 360, 340, 340, 355]) := by decide +kernel

/-- Chapter 6, Example 4. -/
theorem test_a_rise_that_passes_a_class :
    riskTrace { riseCount := 3, lookahead := 0 } (.judged .clear, 0, 0, []) [250, 80, 60] =
      (.judged .near, 0, 0, [250, 80, 60]) ∧
    riskTrace { riseCount := 3, lookahead := 0 } (.judged .near, 0, 0, []) [320, 140] =
      (.judged .near, 0, 0, [320, 140]) := by decide +kernel

/-- A node's record after the completions of a list, each with the conclusions of line A and line B. -/
def completions (r : NodeRecord) (g : GeneralRow) (accept : Bool) (cs : List (Conclusion × Conclusion)) : NodeRecord :=
  cs.foldl (fun r c => r.complete g accept c.1 c.2) r

/-- Chapter 1, Example 1: completions 1 to 3, then 4, then 5 and 6. -/
theorem test_a_node_moves_to_line_b :
    let three := completions {} {} true [(.check, .good .empty), (.silent, .good .empty), (.length, .silent)]
    let six := completions three {} true [(.collision, .marked .empty), (.good .empty, .good .empty), (.good .empty, .check)]
    (three.otherOnly, three.activeLine, three.failTotalA, three.failTotalB) = (2, .a, 3, 1) ∧
    (six.otherOnly, six.activeLine, six.failTotalA, six.failTotalB) = (1, .b, 4, 2) := by decide

/-- Chapter 1, Example 2. -/
theorem test_a_reply_lost_on_both_lines :
    let block41 : HeldBlock := { records := [{ slot := 0, status := 0, raw := 41 }], toggle := false }
    let samples42 : List SampleRecord := [{ slot := 0, status := 0, raw := 42 }]
    let block42 : HeldBlock := { records := samples42, toggle := true }
    nodeAnswersPoll (some block41) (some samples42) none true = (.data true samples42, some block42) ∧
    nodeAnswersPoll (some block42) none none true = (.data true samples42, some block42) ∧
    nodeAnswersPoll (some block42) none none false = (.empty, none) := by decide

/-- Chapter 1, Example 3. -/
theorem test_quarantine_and_return :
    let seven := completions {} {} true
      [(.silent, .silent), (.silent, .silent), (.good .empty, .silent), (.silent, .silent), (.silent, .silent),
        (.silent, .silent), (.silent, .silent)]
    let nine := completions seven {} true [(.silent, .silent), (.silent, .good (.data false []))]
    (seven.failRun, seven.quarantined) = (4, true) ∧ (nine.failRun, nine.quarantined) = (0, false) := by decide

/-! ### Small states -/

/-- The state after a command. -/
def after (c : Instr) (s : State) : State :=
  match exec c s with
  | .next t => t
  | .fault _ => s
  | .refused _ => s

/-- The status and payload of the response a state holds. -/
def said (s : State) : Option (Status × List Byte) := s.ui.response.map fun r => (r.status, r.payload)

/-- Tables of two nodes and a relay slot, with one pair over the three channels of chapter 3. -/
def rows : Tables :=
  { poll := [(0, .poll 9 50 true), (1, .relay), (2, .poll 40 50 false)]
    probe := [(10, channel10), (11, channel11), (12, channel12)]
    pair := [(0, { airT := 10, airRh := 11, surface := 12, zone := 3, skewLimit := 2 })]
    zone := [(3, {})]
    general := {} }

/-- The state at reset with other active tables. -/
def startWith (t : Tables) : State := State.reset.setTb { State.reset.tb with active := t }

/-- A state whose receiver takes frames. -/
def listening (s : State) : State := s.setUi { s.ui with receiver := .ready, response := none, dir := false }

/-- IDLE with the tables. -/
def idle : State := listening (after .startUpEnd (startWith rows))

/-- SURVEY with the first row's exchange due. -/
def walking : State := listening (after (.mode 1 [2]) idle)

/-- SURVEY between two cycles. -/
def waiting : State :=
  (walking.setPs { walking.ps with phase := .waiting, position := none }).setTi { walking.ti with exchange := none }

/-- STOPPING with the first row's exchange due. -/
def stopping : State := walking.setMc { walking.mc with mode := .stopping }

/-- The exchange of a state with its poll frame sent. -/
def polled (s : State) : State := s.setTi { s.ti with exchange := s.ti.exchange.map fun x => { x with phase := .listening } }

/-- A state with a relay request in the queue, in flight, and a result. -/
def relaying (s : State) : State := s.setRu
  { queue := [{ tag := 1, node := 40, replyTimeout := 100, payload := [7] }]
    inFlight := none
    results := [relayResult 5 { tag := 3, node := 40, replyTimeout := 100, payload := [7] } .a (.good (.answer [8])) .silent] }

/-- A state with a summary read sequence open over a bank of nine records. -/
def reading (held next : Nat) (s : State) : State := s.setZm { s.zm with
  bank := { publicationCycle := some 1, records := (List.range 9).map fun z => (z, recompute 0 []) }
  summary := { isOpen := true, nextRecord := next, held := held, broken := false } }

/-- A state with a load sequence open on PAIR. -/
def loading (s : State) : State := s.setTb { s.tb with
  load := some { working := .pair rows.pair, prior := none }, staged := { s.tb.staged with pair := .opened } }

/-- A state with PAIR staged. -/
def staged (s : State) : State := s.setTb { s.tb with staged := { s.tb.staged with pair := .ready [] } }

/-- A state with a commit pending that removes the pair. -/
def committing (s : State) : State := s.setTb { s.tb with pendingCommit := some { rows with pair := [] } }

/-- The measured readings of Example 1 of chapter 3. -/
def measured (s : State) : State := s.setSi { s.si with readings :=
  [ (10, { quality := .good, value := some 2150, fresh := 3, stamp := some 1, line := some .a, marked := false }),
    (11, { quality := .good, value := some 5520, fresh := 2, stamp := some 1, line := some .a, marked := false }),
    (12, { quality := .good, value := some 1180, fresh := 1, stamp := some 1, line := some .a, marked := false }) ] }

/-- The three sample records of Example 1 of chapter 3, as node 9 replies with them. -/
def samples : Reply := .data false
  [{ slot := 0, status := 0, raw := 35714 }, { slot := 1, status := 0, raw := 34496 }, { slot := 2, status := 0, raw := 27440 }]

/-- A candidate that exchanges node 40 for node 41, deletes channel 12 and pair 0, and changes the kind of channel 11. -/
def candidate : Tables := { rows with
  poll := [(0, .poll 9 50 true), (2, .poll 41 50 false)]
  probe := [(10, channel10), (11, { channel11 with kind := .airTemp, refHi := 5000 })]
  pair := []
  general := { quarantineAfter := 5 } }

/-! ### Steps of the commands -/

theorem test_power_on : (after .powerOn { idle with supply := { powered := false, resetAsserted := false } }).mc.mode = .start := by
  decide

theorem test_reset_assert : (after .resetAssert walking).live = false := by decide +kernel

theorem test_reset_release :
    (after .resetRelease { walking with supply := { powered := true, resetAsserted := true } }).ps = State.reset.ps := by
  decide +kernel

theorem test_start_up_end :
    idle.mc.mode = .idle ∧ idle.ti.nodes.keys = [9, 40] ∧ idle.si.readings.keys = [10, 11, 12] ∧
    idle.pe.pairs = [(0, {})] ∧ idle.zm.zones.keys = [3] := by decide +kernel

theorem test_restart_taken :
    (after .restartTaken (idle.setMc { idle.mc with restartPending := true, restartAnswered := true })).mc.reason = .restart := by
  decide +kernel

/-- A RESTART during a SAVE, its response sent, a STATUS handled, and the write's end while the response to it goes out. -/
def answering : State :=
  let restarting := after .uplinkIdleSeen (after .responseSent (after .responseSend (after (.restart 1 [])
    (after .uplinkIdleSeen (after .responseSent (after .responseSend (after (.save 1 []) idle)))))))
  after (.saveWriteEnd .intact) (after .responseSend (after (.status 1 []) restarting))

/-- R162, R170, R189: the response to a later request is sent in full, and the restart is taken after it. -/
theorem test_a_restart_waits_for_a_response :
    answering.mc.restartPending = true ∧ answering.mc.restartAnswered = true ∧ answering.cs.saveWrite = none ∧
    (after .restartTaken answering).mc.mode = .idle ∧ (after .restartTaken answering).ui.dir = true ∧
    (after .restartTaken (after .responseSent answering)).mc.mode = .start := by
  and_intros <;> decide +kernel

theorem witness_UplinkStaysSound :
    WorkExclusive answering ∧ UplinkSound answering ∧ (answering.ui.response.map fun r => r.code) = some 0x01 ∧
    Instr.restartTaken ∉ [Instr.responseSent, .powerOn, .resetRelease, .resetAssert, .powerLoss] := by
  and_intros <;> decide +kernel

theorem test_power_loss : (after .powerLoss { idle with cs := { idle.cs with saveWrite := some [] } }).cs.saveWrite = none := by
  decide +kernel

/-- R183, R184: the image written is judged; that of no rows has 21 bytes (R200). -/
theorem test_save_and_its_write :
    let empty := listening (after .startUpEnd State.reset)
    said (after (.save 1 []) empty) = some (.ok, [0, 1]) ∧
    (storeImage 1 Tables.empty).length = 21 ∧
    (after (.saveWriteEnd .intact) (after (.save 1 []) empty)).cs.state = .valid ∧
    (after (.saveWriteEnd (.corrupt [])) (after (.save 1 []) empty)).cs.state = .damaged := by decide +kernel

theorem test_cycle_timer_expiry :
    (after .cycleTimerExpiry waiting).ps.cycle = 2 ∧ (after .cycleTimerExpiry walking).ps.timer = .expired := by decide +kernel

theorem test_trunk_frame :
    (after .trunkFrameSend walking).ti.dirA = true ∧
    (after .trunkFrameEnd (after .trunkFrameSend walking)).ti.dirA = false := by decide +kernel

/-- The reply of chapter 3's Example 1 on both lines brings the pair to the margin of chapter 5's Example 1, and the zone is
WET. -/
theorem test_line_frame_ends :
    let one := after (.lineFrameEnds .a (driven (replyFrame 9 samples))) (polled walking)
    let both := after (.lineFrameEnds .b (driven (replyFrame 9 samples))) one
    (one.ti.exchange.map fun x => x.node) = some 9 ∧ (both.ti.exchange.map fun x => x.node) = some 40 ∧
    (both.pe.pairs.get 0).bind (fun r => r.lastM) = some (-29) ∧ both.zm.alerts.map (fun a => a.nowLevel) = [.wet] := by
  decide +kernel

/-- A byte without defects after an idle, and a burst. -/
def heardAfter (idle : Idle) (v : Byte) : LineActivity := { idle := idle, byte := some { value := v, doubtful := false, framing := false } }

def burst (idle : Idle) : LineActivity := { idle := idle, byte := none }

/-- R7: the receiver keeps looking past noise, a framing error, and a 5Ah after less than 3 byte-times of idle, a burst
before it being activity as well. -/
theorem test_the_receiver_keeps_looking_for_a_frame :
    gradeLine 9 false ([burst .long, heardAfter .short 0x13] ++ cleanly (replyFrame 9 .empty)) = .ended (.good .empty) ∧
    gradeLine 9 false ([{ idle := .long, byte := some { value := 0x5A, doubtful := false, framing := true } }]
      ++ cleanly (replyFrame 9 .empty)) = .ended (.good .empty) ∧
    gradeLine 9 false [burst .long, heardAfter .gap 0x5A, heardAfter .short 9] = .notStarted ∧
    gradeLine 9 false [heardAfter .short 0x5A] = .unfinished ∧ gradeLine 9 true [heardAfter .gap 0x5A] = .notStarted ∧
    gradeLine 9 true [heardAfter .long 0x5A] = .unfinished := by decide +kernel

/-- R7: noise, 3 byte-times of idle and a good frame on both lines are a good reply of both. -/
theorem test_a_line_concludes_after_noise :
    let shown : List LineSamples := [{ idle := .short, byte := some { early := 0x3FE, late := lineWord 0x13 } },
      { idle := .gap, byte := none }] ++ driven (replyFrame 9 samples)
    let both := after (.lineFrameEnds .b shown) (after (.lineFrameEnds .a shown) (polled walking))
    (both.ti.nodes.get 9).map (fun r => (r.lastOutcomeA, r.lastOutcomeB, r.expectToggle)) =
      some (some .good, some .good, true) := by decide +kernel

/-- R1: the bits of A5h in the order sent, and R6: a byte sent is received as sent; with one early sample off it is doubtful
and keeps its value; with the stop bit at space it has a framing error; a data bit of the later samples is the value's. -/
theorem test_the_bits_of_a_byte :
    lineLevels [0xA5] = [false, true, false, true, false, false, true, false, true, true] ∧
    receivedByte { early := lineWord 0x5A, late := lineWord 0x5A } = { value := 0x5A, doubtful := false, framing := false } ∧
    receivedByte { early := 0b1010110101, late := 0b1010110100 } = { value := 0x5A, doubtful := true, framing := false } ∧
    receivedByte { early := 0b0010110100, late := 0b0010110100 } = { value := 0x5A, doubtful := false, framing := true } ∧
    receivedByte { early := 0b1010110100, late := 0b1010110110 } = { value := 0x5B, doubtful := true, framing := false } := by
  decide +kernel

/-- R6, R9, R10: one early sample off, on both lines, makes both MARKED, and the reply is taken, since node 9's row has
accept_marked set. -/
theorem test_a_doubtful_byte_marks_its_line :
    let shown := (driven (replyFrame 9 samples)).modify 4 fun x =>
      { x with byte := x.byte.map fun b => { b with early := b.early ^^^ 8 } }
    let both := after (.lineFrameEnds .b shown) (after (.lineFrameEnds .a shown) (polled walking))
    (both.ti.nodes.get 9).map (fun r => (r.lastOutcomeA, r.lastOutcomeB, r.expectToggle, r.failRun)) =
      some (some .marked, some .marked, true, 0) := by decide +kernel

theorem test_line_frame_gap_and_reply_timeout :
    let timed := after (.replyTimeout .quiet .started) (polled walking)
    let done := after (.lineFrameGap .b) timed
    (timed.ti.exchange.map fun x => (x.lineA, x.lineB)) = some (.concluded .silent, .started) ∧
    (done.ti.nodes.get 9).map (fun r => (r.lastOutcomeA, r.lastOutcomeB, r.failRun)) = some (some .silent, some .length, 1) := by
  decide +kernel

theorem test_load_timeout : (after .loadTimeout (loading idle)).tb = idle.tb := by decide +kernel

theorem test_uplink_line :
    (after .uplinkIdleSeen (idle.setUi { idle.ui with receiver := .waitIdle })).ui.receiver = .ready ∧
    (after .otherStationDone (idle.setUi { idle.ui with receiver := .other })).ui.receiver = .waitIdle ∧
    (after .uplinkFrameGap idle).ui.errors = 1 ∧ (after (.uplinkFrameDefect .framing) idle).ui.errors = 1 ∧
    (after (.uplinkCheckFail 1 1 [] 0) idle).ui.receiver = .waitIdle ∧
    (after (.frameForOtherStation 2 1 []) idle).ui.receiver = .other ∧
    said (after (.unknownRequestCode 1 0x07 []) idle) = some (.badRequest, []) := by decide +kernel

theorem test_response_send_and_sent :
    let answered := after (.status 1 []) idle
    (after .responseSend answered).ui.dir = true ∧
    (after .responseSent (after .responseSend answered)).ui = { idle.ui with receiver := .waitIdle } := by decide +kernel

theorem test_line_break :
    let space := after (.breakCharacter [1]) (loading (reading 1 0 idle))
    (after .spaceEndsEarly space).ui.errors = 1 ∧ (after .lineBreak space).tb.load = none ∧
    (after .lineBreak space).zm.summary.broken = true ∧ (after .lineBreak space).ui.errors = 0 ∧
    (after .breakEnd (after .lineBreak space)).ui.receiver = .waitIdle := by decide +kernel

/-- R166, R173, R176: in READY the break character's start bit has begun a frame, and in WAIT_IDLE none. -/
theorem test_a_space_that_ends_early :
    (after .spaceEndsEarly (after (.breakCharacter []) idle)).ui.errors = 1 ∧
    (after .spaceEndsEarly (after (.breakCharacter []) idle)).ui.receiver = .waitIdle ∧
    (after .spaceEndsEarly (after (.breakCharacter []) (idle.setUi { idle.ui with receiver := .waitIdle }))).ui.errors = 0 := by
  decide +kernel

theorem test_status_counters_ident :
    said (after (.status 1 []) walking) = some (.ok, [2, 0, 1, 0, 0, 0, 0, 0, 0, 0]) ∧
    said (after (.counters 1 []) (idle.setUi { idle.ui with errors := 127, overflow := true })) = some (.ok, [127, 1, 0]) ∧
    (said (after (.ident 1 []) idle)).map (fun r => r.2.length) = some 23 := by decide +kernel

theorem test_mode_and_restart :
    walking.mc.mode = .survey ∧ walking.ps.cycle = 1 ∧ said (after (.mode 1 [3]) idle) = some (.badField, []) ∧
    (after (.mode 1 [1]) waiting).mc.mode = .idle ∧ (after (.restart 1 []) idle).mc.restartPending = true := by decide +kernel

/-- A fresh record of node 9 and one of node 40, of which one is asked for, so that MORE is set (R198). -/
theorem test_line_report_and_skip :
    said (after (.lineReport 1 [1, 1]) idle) = some (.ok, [0x81, 9, 0, 0, 0, 0xFF, 0xFF, 0, 0, 0, 0, 0, 0, 0]) ∧
    said (after (.skip 1 [40, 5]) idle) = some (.ok, [0]) ∧
    ((after (.skip 1 [40, 5]) idle).ti.nodes.get 40).map (fun r => r.skipRemaining) = some 5 := by decide +kernel

theorem test_read_readings :
    said (after (.readReadings 1 [10, 1]) (measured walking)) = some (.ok, [10, 0, 1, 3, 0x08, 0x66, 0, 1, 0, 0]) ∧
    said (after (.readReadings 1 [127, 1]) idle) = some (.ok, [127, 0xFF, 0, 0, 0, 0, 0, 0, 0, 0]) := by decide +kernel

theorem test_forces :
    let forced := listening (after (.forceSet 1 [12, 1, 0xFF, 0x9C]) idle)
    forced.si.forces = [(12, { value := -100, kind := .pin })] ∧
    said (after (.forceSet 1 [12, 0, 0, 0]) forced) = some (.ok, [1, 1, 1, 0xFF, 0x9C]) ∧
    said (after (.forceClear 1 [12]) forced) = some (.ok, [0xFF, 0x9C, 1]) ∧
    said (after (.forceList 1 []) forced) = some (.ok, [1, 12, 1, 0xFF, 0x9C]) := by decide +kernel

/-- R199: an UNKNOWN(NEW) pair of zone 3, and a pair without a row. -/
theorem test_read_pairs : said (after (.readPairs 1 [0, 2]) idle) = some (.ok, [0x1C, 0, 0, 0, 0]) := by decide +kernel

theorem test_summary :
    let open9 := (reading 0 0 idle).setZm { (reading 0 0 idle).zm with summary := idle.zm.summary }
    (after (.summaryOpen 1 []) open9).zm.summary.nextRecord = 8 ∧
    (after (.summaryNext 1 []) (reading 1 8 idle)).zm.bank.records.keys = [3] ∧
    (after (.summaryClose 1 []) (reading 0 8 idle)).zm.bank.records.length = 9 ∧
    said (after (.summaryClose 1 []) idle) = some (.notOpen, []) := by decide +kernel

theorem test_take_alerts :
    let wet : ZoneRecord := { recompute 0 [] with level := .wet, blind := true }
    said (after (.takeAlerts 1 []) (idle.setZm
      { idle.zm with alerts := recordAlert 0x0102 3 (recompute 0 []) wet [] })) =
      some (.ok, [1, 0, 3, 1, 0x84, 1, 1, 2, 1, 2]) := by decide +kernel

theorem test_load_sequence :
    let opened := listening (after (.loadOpen 1 [2, 1]) idle)
    let loaded := listening (after (.loadRows 1 [1, 1, 10, 11, 12, 3, 7, 2, 0, 0, 0, 0, 0, 0]) opened)
    said (after (.loadOpen 1 [2, 1]) idle) = some (.ok, [2, 1, 1]) ∧
    said (after (.loadRows 1 [2, 0, 0, 0, 0, 0, 0, 3, 0, 0, 0, 0, 0, 0]) opened) = some (.badField, [2]) ∧
    said (after (.loadClose 1 []) loaded) = some (.ok, [2, 1]) ∧
    (after (.loadAbandon 1 []) loaded).tb = idle.tb := by decide +kernel

theorem test_commit :
    said (after (.commit 1 []) (staged idle)) = some (.ok, [0, 4]) ∧ (after (.commit 1 []) (staged idle)).pe.pairs = [] ∧
    said (after (.commit 1 []) (staged walking)) = some (.ok, [1, 4]) := by decide +kernel

theorem test_read_table :
    said (after (.readTable 1 [2, 0, 0, 2]) idle) = some (.ok, [0, 1, 0, 10, 11, 12, 3, 2, 0, 1, 0, 0, 0, 0, 0]) ∧
    said (after (.readTable 1 [3, 0, 3, 1]) idle) = some (.ok, [0, 1, 3, 1, 0x2C, 0, 100, 0, 0, 50, 2, 3, 4, 0]) := by
  decide +kernel

theorem test_relay :
    said (after (.relaySend 1 [2, 40, 10, 7]) (relaying walking)) = some (.ok, [2]) ∧
    said (after (.relaySend 1 [1, 40, 10, 7]) (relaying walking)) = some (.busy, [1]) ∧
    said (after (.relayCollect 1 [1, 0]) (relaying walking)) =
      some (.ok, [3, 40, 0, 4, 0, 0x60, 0, 0, 5, 1, 8, 0, 1]) := by decide +kernel

/-- R152 at the ends of its ranges, its checks in their order. -/
theorem test_relay_send_at_its_limits :
    let full := walking.setRu { walking.ru with queue := (List.range 8).map fun k =>
      { tag := k, node := 9, replyTimeout := 10, payload := [0] } }
    said (after (.relaySend 1 ([9, 126, 25] ++ List.replicate 32 0)) walking) = some (.ok, [1]) ∧
    said (after (.relaySend 1 ([9, 126, 25] ++ List.replicate 33 0)) walking) = some (.badLength, []) ∧
    said (after (.relaySend 1 [9, 127, 25, 0]) walking) = some (.badField, []) ∧
    said (after (.relaySend 1 [9, 1, 0, 0]) walking) = some (.badField, []) ∧
    said (after (.relaySend 1 [9, 1, 1, 0]) idle) = some (.wrongMode, []) ∧
    said (after (.relaySend 1 [9, 1, 1, 0]) (walking.setTb { walking.tb with active := candidate })) = some (.noSlot, []) ∧
    said (after (.relaySend 1 [9, 1, 1, 0]) full) = some (.full, []) := by decide +kernel

/-! ### Witnesses: the hypotheses of each statement, clause by clause -/

theorem witness_StepRunsTheFrontCommand :
    ({ idle with pending := [.loadTimeout, .breakEnd] } : State).pending = .loadTimeout :: [.breakEnd] ∧ idle.pending = [] :=
  ⟨rfl, by decide +kernel⟩

/-- A state in SURVEY with a command waiting. -/
def sound : State := { walking with pending := [.trunkFrameSend] }

theorem witness_invariants_1 : TablesSound sound ∧ WorkExclusive sound ∧ PhaseSound sound ∧ LinesSound sound ∧
    UplinkSound sound ∧ RecordsFollowTables sound := by
  and_intros <;> decide +kernel

theorem witness_invariants_2 : IntakeSound sound ∧ PairsSound sound ∧ JudgedPairsUsable sound ∧ ZonesCurrent sound ∧
    AlertsSound sound ∧ SummarySound sound ∧ RelaySound sound ∧ IdleWatchesNothing sound := by
  and_intros <;> decide +kernel

theorem witness_invariants_step : ∃ t, step sound = .next t := ⟨_, rfl⟩

theorem witness_JudgedPairsStayUsable :
    let s := after (.lineFrameEnds .b (driven (replyFrame 9 samples)))
      (after (.lineFrameEnds .a (driven (replyFrame 9 samples))) (polled walking))
    JudgedPairsUsable s ∧ (s.pe.pairs.get 0).map (fun r => r.state) = some (.judged .wet) := by decide +kernel

theorem witness_SummaryStaysSound :
    let s := reading 4 8 { idle with pending := [.loadTimeout] }
    SummarySound s ∧ s.zm.summary.isOpen = true ∧ step s = .next (after .loadTimeout { s with pending := [] }) ∧
    (after .loadTimeout { s with pending := [] }).zm.summary.isOpen = true :=
  ⟨by decide +kernel, rfl, rfl, by decide +kernel⟩

theorem witness_IdleStaysUnwatched : IdleWatchesNothing idle ∧ idle.mc.mode = .idle ∧ TablesSound idle ∧
    RecordsFollowTables idle ∧ PhaseSound idle := by
  and_intros <;> decide +kernel

/-- A row of each table at the ends of its ranges. -/
theorem witness_RowsRoundTrip :
    PollRow.wellFormed (.poll 126 250 true) = true ∧ PollRow.ofBytes [1, 126, 25, 1] = some (.poll 126 250 true) ∧
    PollRow.ofBytes [1, 127, 25, 1] = none ∧ PollRow.ofBytes [2, 0, 0, 0] = some .relay ∧
    ProbeRow.ofBytes [9, 0, 0, 0x2E, 0xE0, 0xCB, 0x20, 0xF8, 0x30, 0x13, 0x88, 3] = some channel10 ∧
    PairRow.ofBytes [127, 127, 127, 31, 7] = some { airT := 127, airRh := 127, surface := 127, zone := 31, skewLimit := 7 } ∧
    ZoneRow.ofBytes [1, 0x2C, 0, 100, 0, 0, 50, 2, 3, 4, 0] = some {} ∧
    GeneralRow.ofBytes [1, 0, 50, 0, 4, 8, 3] = some {} ∧ GeneralRow.ofBytes [247, 2, 0x58, 1, 15, 64, 15] =
      some { uplinkAddress := 247, cyclePeriod := 60000, autoSurvey := true, quarantineAfter := 15, quarantineInterval := 64
             lineSwitchAfter := 15 } := by decide +kernel

/-- R131, R193, R197: row bytes that no row has, each one step outside a range, and the unused bytes of a RELAY row. -/
theorem witness_RowsRoundTrip_refusals :
    PollRow.ofBytes [3, 0, 0, 0] = none ∧ PollRow.ofBytes [1, 9, 25, 2] = none ∧ PollRow.ofBytes [1, 9, 26, 1] = none ∧
    PollRow.ofBytes [1, 0, 25, 1] = none ∧ PollRow.ofBytes [2, 7, 0, 255] = some .relay ∧
    ProbeRow.ofBytes [9, 0, 3, 0x2E, 0xE0, 0xCB, 0x20, 0xF8, 0x30, 0x13, 0x88, 3] = none ∧
    ProbeRow.ofBytes [9, 0, 1, 0x2E, 0xE0, 0xCB, 0x20, 0xF8, 0x30, 0x13, 0x88, 3] = none ∧
    ProbeRow.ofBytes [9, 4, 0, 0x2E, 0xE0, 0xCB, 0x20, 0xF8, 0x30, 0x13, 0x88, 3] = none ∧
    PairRow.ofBytes [127, 127, 127, 32, 7] = none ∧ PairRow.ofBytes [127, 127, 127, 31, 8] = none ∧
    ZoneRow.ofBytes [0, 100, 0, 100, 0, 0, 50, 2, 3, 4, 0] = none ∧ ZoneRow.ofBytes [7, 0xD1, 0, 100, 0, 0, 50, 2, 3, 4, 0] = none ∧
    GeneralRow.ofBytes [1, 0, 50, 2, 4, 8, 3] = none ∧ GeneralRow.ofBytes [1, 0, 4, 0, 4, 8, 3] = none := by
  and_intros <;> decide +kernel

theorem witness_LoadEntriesCut :
    loadEntries .pair [1, 0, 10, 11, 12, 3, 2] = some [[1, 0, 10, 11, 12, 3, 2]] ∧ loadEntries .pair [] = none ∧
    (loadEntries .pair (List.replicate 112 0)).map (fun es => es.length) = some 16 ∧
    loadEntries .pair (List.replicate 119 0) = none ∧ loadEntries .pair [1] = none := by decide +kernel

theorem witness_ImageRoundTrip : rows.sound ∧ (1 ≤ 65535 ∧ 65535 ≤ 65535) ∧ judge (storeImage 1 Tables.empty) = some (1, Tables.empty) := by
  decide +kernel

/-- Bytes with the check of all that stands before their last two. -/
def refit (bs : List Byte) : List Byte :=
  bs.take (bs.length - 2) ++ wordBytes (check16 (bs.take (bs.length - 2)))

/-- The image of two PAIR rows, with a byte of it changed and the check made right again. -/
def damaged (place : Nat) (value : Byte) : List Byte :=
  refit ((storeImage 7 { Tables.empty with pair := [(0, ⟨10, 11, 12, 3, 2⟩), (63, ⟨127, 127, 127, 31, 7⟩)] }).set place value)

/-- R182, R200: format, length, a row count, an op byte, an index outside the table, one that does not ascend, a row that is not
well formed, and the check; and bytes behind the image. -/
theorem witness_ImageRoundTrip_judging :
    (judge (damaged 0 1)).map (fun p => (p.1, p.2.pair.keys)) = some (7, [0, 63]) ∧ (damaged 0 1).length = 35 ∧
    (∀ e ∈ [(0, 2), (2, 34), (5, 0), (6, 1), (8, 3), (10, 2), (11, 1), (19, 2), (27, 64), (27, 0), (31, 32)],
      judge (damaged e.1 e.2) = none) ∧
    judge ((damaged 0 1).set 34 0) = none ∧ judge ((damaged 0 1).take 34) = none ∧ judge [] = none ∧
    (judge (damaged 0 1 ++ [1])).isSome = true := by decide +kernel

/-- Replies and damages at the ends of their ranges. -/
theorem witness_ReplyFramesGrade :
    samples.sendable = true ∧ (Reply.fault 255).sendable = true ∧ (Reply.answer (List.replicate 32 0)).sendable = true ∧
    (Reply.fault 1).sendable = true ∧ (replyFrame 126 .empty).length = 6 ∧
    gradeLine 126 true (cleanly (replyFrame 126 .empty)) = .ended (.good .empty) ∧
    gradeLine 1 false (cleanly (replyFrame 1 (.fault 1))) = .ended (.good (.fault 1)) ∧
    gradeLine 9 false [burst .long, heardAfter .gap 0x5A] = .notStarted ∧
    wordBytes (check16 (replyBody 9 .empty)) ≠ [0, 0] ∧ (126 : Nat) ≠ 9 ∧ Idle.gap ≠ .short := by decide +kernel

/-- LENGTH (R3, R9): no kind, kinds 0 and 5, the lengths next to the right ones, and a FAULT code of 0. -/
theorem witness_ReplyFramesGrade_length :
    ([(0, 0), (5, 0), (15, 0), (1, 0), (1, 3), (1, 17), (1, 20), (2, 1), (3, 0), (3, 2), (4, 33)].all fun e =>
      decide (gradeLine 9 false (cleanly [0x5A, 9, byte e.1, byte e.2]) = .ended .length)) = true ∧
    gradeLine 9 false (cleanly [0x5A, 9, 3, 1, 0, 1, 2]) = .ended .length ∧
    gradeLine 9 false (cleanly [0x5A, 9, 4, 32]) = .unfinished := by decide +kernel

/-- Each command that changes the mode, from a sound state. -/
theorem witness_ModesChangeAsTabled :
    (∀ s ∈ [walking, waiting, idle, stopping, startWith rows], PhaseSound s) ∧
    (∀ e ∈ [(Instr.startUpEnd, startWith rows, Mode.idle), (.mode 1 [2], idle, .survey),
        (.frameForOtherStation 1 0x04 [2], idle, .survey), (.mode 1 [1], walking, .stopping), (.mode 1 [2], stopping, .survey),
        (.mode 1 [1], waiting, .idle), (.resetRelease, after .resetAssert idle, .start)],
      (after e.1 e.2.1).mc.mode = e.2.2) := by decide +kernel

/-- The last row's exchange of a cycle, in SURVEY with the timer run out, and in STOPPING. -/
def lastRow (s : State) : State :=
  let s := polled s
  (s.setPs { s.ps with position := some 2, timer := .expired }).setTi { s.ti with
    exchange := s.ti.exchange.map fun x => { x with node := 40 } }

/-- A completion ends the stop, or starts the next cycle at once (R30, R32). -/
theorem witness_ModesAndCyclesAtCompletion :
    let quiet := fun s => after (.replyTimeout .quiet .quiet) (lastRow s)
    PhaseSound (lastRow walking) ∧ PhaseSound (lastRow stopping) ∧ (quiet stopping).mc.mode = .idle ∧
    (quiet stopping).ps.cycle = 1 ∧ (quiet walking).ps.cycle = 2 ∧ (quiet walking).ps.timer = .running 5000 := by
  and_intros <;> decide +kernel

theorem witness_CycleNumberAdvances :
    let s : State := { idle with pending := [.breakEnd] }
    PhaseSound s ∧ s.mc.mode = .idle ∧ step s = .next idle ∧ (after (.mode 1 [2]) idle).ps.cycle = idle.ps.cycle + 1 ∧
    waiting.live = true ∧ waiting.ps.phase = .waiting :=
  ⟨by decide +kernel, by decide +kernel, rfl, by decide +kernel, by decide +kernel, by decide +kernel⟩

theorem witness_StoreKeptByOtherCommands : ∃ t, exec (.save 1 []) idle = .next t ∧ t.cs ≠ idle.cs :=
  ⟨after (.save 1 []) idle, rfl, by decide +kernel⟩

theorem witness_TrunkLeavesTheUplink :
    (∃ t, exec .cycleTimerExpiry waiting = .next t) ∧ (∃ t, exec .trunkFrameSend walking = .next t) ∧
    (∃ t, exec .trunkFrameEnd walking = .next t) ∧ (∃ t, exec (.lineFrameEnds .a []) (polled walking) = .next t) ∧
    (∃ t, exec (.lineFrameGap .b) (polled walking) = .next t) ∧
    (∃ t, exec (.replyTimeout .quiet .quiet) (polled walking) = .next t) :=
  ⟨⟨_, rfl⟩, ⟨_, rfl⟩, ⟨_, rfl⟩, ⟨_, rfl⟩, ⟨_, rfl⟩, ⟨_, rfl⟩⟩

theorem witness_CommitRebuilds :
    candidate.installable ∧ rows.installable ∧ ({ rows with zone := [(3, { hyst := 60 })] } : Tables).installable ∧
    walking.tb.active = rows := by
  and_intros <;> decide +kernel

theorem witness_CommitRebuilds_clauses :
    40 ∉ pollNodes candidate.poll ∧ 9 ∈ pollNodes candidate.poll ∧ (walking.ti.nodes.get 9).isSome = true ∧
    41 ∈ pollNodes candidate.poll ∧ walking.ti.nodes.get 41 = none ∧ candidate.probe.get 12 = none ∧
    candidate.probe.get 11 ≠ rows.probe.get 11 ∧ candidate.probe.get 10 = rows.probe.get 10 ∧
    (walking.si.readings.get 10).isSome = true ∧ candidate.pair.get 0 = none ∧ (walking.pe.pairs.get 0).isSome = true := by
  decide +kernel

/-- Pair 1 at WATCH and pair 4 at NEAR with equal margins, and pair 2 UNKNOWN. -/
def membersOf3 : List (Nat × PairRecord) :=
  [(1, { state := .judged .watch, lastM := some 80 }), (2, {}), (4, { state := .judged .near, lastM := some 80 })]

/-- A zone's status and its alert before a commit that makes its judged pair UNKNOWN(NEW), and of two other zones. -/
def alarmed : State :=
  let s := after (.lineFrameEnds .b (driven (replyFrame 9 samples)))
    (after (.lineFrameEnds .a (driven (replyFrame 9 samples))) (polled walking))
  s.setZm { s.zm with
    zones := s.zm.zones ++ [(5, recompute 0 membersOf3)]
    alerts := s.zm.alerts ++ recordAlert 7 6 (recompute 0 []) (recompute 0 membersOf3) [] }

/-- R116: the entry of zone 3 is updated where it stands, that of zone 6, which has no row, goes, and kept zone 5, which has
no entry and moves, gets one. -/
theorem witness_CommitRebuilds_alerts :
    let kept : Tables := { candidate with zone := [(3, {}), (5, {})] }
    kept.installable ∧ alarmed.zm.alerts.map (fun a => (a.zone, a.nowLevel, a.changes)) = [(3, .wet, 1), (6, .near, 1)] ∧
    (takeCommit kept alarmed).zm.alerts.map (fun a => (a.zone, a.nowLevel, a.changes)) = [(3, .clear, 2), (5, .clear, 1)] := by
  and_intros <;> decide +kernel

theorem witness_RefusalsChangeNothing :
    (judgeRequest none [] idle).status = .badRequest ∧ (judgeRequest (some .mode) [] idle).status = .badLength ∧
    (judgeRequest (some .summaryNext) []
      (idle.setZm { idle.zm with summary := { idle.zm.summary with broken := true } })).status = .broken := by decide +kernel

theorem witness_SaturationCurve :
    satPressure (-1000) = 2870 ∧ satPressure 4500 = 95800 ∧ satInterval 4500 = 10 ∧ knotTemp 11 = 4500 ∧
    dewPoint 2025 10000 = 2025 := by decide +kernel

theorem witness_DewPointStages :
    compute { ta := -1000, rh := 9998, ts := 0 } [] 4 = .computed (-1000) 1000 none true ∧
    compute { ta := 4500, rh := 9999, ts := 0 } [] 4 = .computed 4500 (-4500) none false ∧
    (knot 0 = 2870 ∧ knot 11 = 95800 ∧ dewLookup 2869 = -1000 ∧ dewIsLow 2869 = true ∧ dewIsLow 2870 = false) ∧
    dewLookup 2870 = -1000 ∧ dewLookup 4219 = -500 ∧ dewLookup 4220 = -500 ∧ dewLookup 23744 = 2025 ∧
    dewLookup 95799 = 4500 ∧ dewLookup 95800 = 4500 := by decide +kernel

theorem witness_MarginFollowsInputs :
    compute { ta := 4500, rh := 10000, ts := -4000 } [] 4 = .computed 4500 (-8500) none false ∧
    compute { ta := 2150, rh := 0, ts := 6000 } [] 4 = .computed (-1000) 7000 none true := by decide +kernel

theorem witness_ProjectionAtLookahead :
    compute { ta := 2025, rh := 10000, ts := 2225 } [150, 160, 190] 4 = .computed 2025 200 (some 266) false ∧
    compute { ta := 2025, rh := 10000, ts := 2225 } [150, 160] 4 = .computed 2025 200 none false := by decide +kernel

theorem witness_CalibrationRounds :
    channel11.wellFormed = true ∧ { channel11 with rawLo := 56000, rawHi := 8000 }.wellFormed = true ∧
    unclampedValue channel11 7988 = -3 ∧ unclampedValue channel11 65535 = 11986 ∧ unclampedValue channel11 8012 = 3 := by
  decide +kernel

/-- R47, R50, R62: an OK record and a WARMING one of one slot, under a SUBSTITUTE (notes/assumptions/23.md). -/
theorem test_a_substitute_after_a_warming_record :
    let s := listening (after (.forceSet 1 [10, 0, 0, 0]) walking)
    let taken : SampleStatus → Taken := fun status =>
      .newBlock [{ slot := 0, status := .ok, raw := 35714 }, { slot := 0, status := status, raw := 0 }]
    let then10 : SampleStatus → Reading := fun status =>
      (intakeEvent { node := 9, line := some .a, marked := false, taken := taken status } s).reading 10
    ((then10 .warming).quality, (then10 .warming).value) = (.forced, some 0) ∧
    ((then10 .sensorFault).quality, (then10 .sensorFault).value) = (.fault, some 2150) := by decide +kernel

theorem witness_ReadingEvents :
    idle.tb.active.installable ∧ idle.tb.active.probe.get 10 = some channel10 ∧ idle.si.readings.get 10 = some {} ∧
    idle.si.forces.get 10 = none ∧ channel10.node = 9 ∧ channel10.node ≠ 40 ∧
    ((listening (after (.forceSet 1 [10, 1, 0, 0]) idle)).si.forces.get 10 = some { value := 0, kind := .pin }) ∧
    ((listening (after (.forceSet 1 [10, 0, 0, 0]) idle)).si.forces.get 10 = some { value := 0, kind := .substitute }) ∧
    (measured idle).si.readings.get 12 =
      some { quality := .good, value := some 1180, fresh := 1, stamp := some 1, line := some .a, marked := false } := by
  decide +kernel

theorem witness_ClassesAndHysteresis :
    ({} : ZoneRow).wellFormed = true ∧ ({ hyst := 0 } : ZoneRow).wellFormed = true ∧
    classify {} 0 0 none = .wet ∧ classify {} 0 1 none = .near ∧ classify {} 0 100 none = .near ∧
    classify {} 0 101 none = .watch ∧ classify {} 0 300 none = .watch ∧ classify {} 0 301 none = .clear ∧
    classify {} 0 301 (some 100) = .watch ∧ classify {} 50 350 none = .watch ∧ classify {} 50 351 none = .clear ∧
    trendFlag {} 301 (some 100) = true := by decide

theorem witness_RunsCompleteAMove :
    ({} : ZoneRow).wellFormed = true ∧
    (∀ e ∈ [((280 : Int), (none : Option Int))] ++ [(250, none)], Level.clear.rank < (classify {} 0 e.1 e.2).rank) ∧
    (∀ e ∈ [((380 : Int), (none : Option Int)), (400, none)] ++ [(410, none)],
      (classify {} 50 e.1 e.2).rank < Level.watch.rank) ∧
    ((classify {} 0 320 none).rank < Level.watch.rank ∧ Level.watch.rank ≤ (classify {} 50 320 none).rank) := by decide

/-- R97, R98: an evaluation of the opposite direction in the middle of a run, and one that completes there (rise_count 2,
fall_count 3; with hysteresis 360 lies above WATCH). -/
theorem witness_RunsCompleteAMove_opposite :
    (Level.watch.rank < (classify {} 0 90 none).rank ∧ (classify {} 50 360 none).rank < Level.watch.rank) ∧
    riskStep {} (.judged .watch) 0 2 90 none = (.watch, 1, 0) ∧ riskStep {} (.judged .watch) 1 0 360 none = (.watch, 0, 1) ∧
    riskStep {} (.judged .watch) 1 1 90 none = (.near, 0, 0) ∧ riskStep {} (.judged .watch) 1 2 360 none = (.clear, 0, 0) := by
  decide

theorem witness_EvaluationOutcomes :
    let s := measured walking
    let hot := s.setSi { s.si with readings := s.si.readings.modify 10 fun r => { r with value := some 4501 } }
    (∀ k ∈ [10, 11, 12], (s.reading k).quality.usable = true) ∧ (walking.reading 10).quality = .none ∧
    ((s.setSi { s.si with readings := s.si.readings.modify 12 Reading.toFault }).reading 12).quality = .fault ∧
    ((stopReadings s).reading 12).quality = .stale ∧
    readingAge s.ps.cycle (s.reading 10) = 0 ∧ readingAge 3 (s.reading 10) = 2 ∧ readingAge 4 (s.reading 11) = 3 ∧
    readingAge 2 { stamp := some 65534 } = 4 ∧ readingAge 0 { stamp := some 1 } = 65535 ∧
    (hot.reading 10).value = some 4501 ∧ (∀ k ∈ [10, 11, 12], (hot.reading k).quality.usable = true) := by decide +kernel

theorem witness_RecomputeIsTheWorstMember :
    Keyed.wf membersOf3 ∧ (∀ e ∈ membersOf3, e.2.state.level? ≠ none → e.2.lastM.isSome = true) ∧
    recompute 0 membersOf3 =
      { level := .near, blind := true, unknownCount := 1, clearCount := 0, watchCount := 1, nearCount := 1, wetCount := 0
        worst := some { margin := 80, pair := 1 } } := by decide +kernel

theorem witness_AlertIsRecorded :
    let one := recordAlert 7 3 (recompute 0 []) (recompute 0 membersOf3) []
    (one.map fun a => a.zone) = [3] ∧ (recordAlert 8 3 (recompute 0 membersOf3) (recompute 0 []) one).map
      (fun a => (a.fromLevel, a.nowLevel, a.changes, a.firstCycle, a.lastCycle)) = [(.clear, .clear, 2, 7, 8)] ∧
    alarmed.tb.active.zone.get 3 = some {} ∧ (alarmed.zm.zones.get 3).map (fun z => (z.level, z.blind)) = some (.wet, false) ∧
    (zoneNotice 3 alarmed).zm.alerts = alarmed.zm.alerts ∧
    (zoneNotice 3 (alarmed.setPe { pairs := [(0, {})] })).zm.alerts.map (fun a => (a.nowLevel, a.changes)) = [(.clear, 2), (.near, 1)] := by
  decide +kernel

theorem witness_CycleCompletes :
    waiting.zm.summary.isOpen = false ∧ (reading 3 8 waiting).zm.summary.isOpen = true ∧ (reading 3 8 waiting).mc.mode ≠ .stopping ∧
    (reading 4 8 waiting).zm.summary.held = 4 ∧ stopping.mc.mode = .stopping ∧ walking.ps.timer = .running 5000 ∧
    (after .cycleTimerExpiry walking).ps.timer = .expired ∧ walking.mc.mode = .survey := by decide +kernel

/-- R54, R103: a stop with a judged pair, and one with a commit pending. -/
theorem witness_CycleCompletes_stop :
    alarmed.tb.pendingCommit = none ∧ (alarmed.reading 12).quality = .good ∧
    (stopReadings alarmed).reading 12 = { alarmed.reading 12 with quality := .stale, fresh := 0 } ∧
    ((stop alarmed).pe.pairs.get 0).map (fun r => (r.state, r.history, r.lastM)) =
      some (.unknown .stopped, [], some (-29)) ∧
    (stop alarmed).zm.alerts.map (fun a => (a.zone, a.nowLevel, a.nowBlind, a.changes)) =
      [(3, .clear, true, 2), (6, .near, true, 1)] ∧
    (stopPairs walking).pe = walking.pe ∧ (committing alarmed).tb.pendingCommit = some { rows with pair := [] } := by
  and_intros <;> decide +kernel

theorem witness_NodeRecordAtCompletion :
    let r : NodeRecord := { otherOnly := 2, failRun := 3 }
    (pickLine r.activeLine (.good .empty) .silent).usable false = some (false, .empty) ∧
    ((pickLine r.activeLine .check (.good .empty)).usable false = none ∧ 3 ≤ r.otherOnly + 1) ∧
    (pickLine (otherLine r.activeLine) .check (.marked .empty)).usable false = none ∧
    (r.quarantined = false ∧ 4 ≤ r.failRun + 1) ∧ ({} : NodeRecord).failRun + 1 < 4 ∧
    ({} : NodeRecord).otherOnly + 1 < 3 ∧
    (r.complete {} false (.good (.data false [])) .silent).expectToggle = true ∧
    (r.complete {} false (.good (.data true [])) .silent).outOfStepTotal = 1 ∧
    (r.complete {} false (.good (.fault 9)) .silent).lastFaultCode = some 9 := by decide

theorem witness_LostReplyIsRepeated :
    (nodeAnswersPoll none (some []) none false).1 = .data false [] ∧
    (nodeAnswersPoll (some { records := [], toggle := true }) none none false).1 = .empty := by decide

theorem witness_RowVisits :
    let skipping := after (.skip 1 [40, 255]) idle
    let aside := walking.setTi { walking.ti with nodes := walking.ti.nodes.modify 40 fun r => { r with quarantined := true } }
    ((skipping.ti.nodes.get 40).map fun r => decide (0 < r.skipRemaining)) = some true ∧
    ((aside.ti.nodes.get 40).map fun r => (r.skipRemaining, r.quarantined)) = some (0, true) ∧
    ¬ aside.tb.active.general.quarantineInterval ∣ aside.ps.cycle.toNat ∧
    ((walking.ti.nodes.get 40).map fun r => (r.skipRemaining, r.quarantined)) = some (0, false) ∧
    ((relaying walking).ru.queue.length = 1 ∧ (relaying walking).ru.held = 1) ∧ walking.ru.queue = [] := by decide +kernel

/-- The rows of node 9 and of the relay slot are passed over and that of node 40 is sent; the walk resumes after a position
that a commit may have emptied; with every row passed over the cycle completes. -/
theorem witness_RowVisits_walk :
    let skipped := (walking.setPs { walking.ps with position := none }).setTi { walking.ti with
      exchange := none, nodes := walking.ti.nodes.modify 9 fun r => { r with skipRemaining := 1 } }
    let resumed := skipped.setPs { skipped.ps with position := some 0 }
    rows.poll = rows.poll.take 2 ++ (2, .poll 40 50 false) :: [] ∧
    (visitRow 0 (.poll 9 50 true) skipped).2 = false ∧
    (visitRow 1 .relay (visitRow 0 (.poll 9 50 true) skipped).1).2 = false ∧
    (continueWalk skipped).ps.position = some 2 ∧ (continueWalk skipped).ti.exchange.map (fun x => x.node) = some 40 ∧
    Keyed.wf resumed.tb.active.poll ∧ resumed.rowsAhead.keys = [1, 2] ∧
    (continueWalk (skipped.setPs { skipped.ps with position := some 2 })).ps.phase = .waiting := by decide +kernel

theorem witness_EntryToStart :
    idle.supply.resetAsserted = false ∧ (after .resetAssert idle).supply = { powered := true, resetAsserted := true } ∧
    (after .powerLoss (after .resetAssert idle)).supply = { powered := false, resetAsserted := true } ∧
    idle.live = true ∧ idle.cs.image = .never ∧ idle.cs.saveWrite = none ∧ idle.mc.restartPending = false ∧
    (let due := after .responseSent answering
     due.live = true ∧ due.mc.restartPending = true ∧ due.mc.restartAnswered = true ∧ due.cs.saveWrite = none ∧
     due.ui.response = none) ∧
    (after (.save 1 []) idle).cs.image = .incomplete ∧ judge [] = none ∧
    judge (storeImage 7 Tables.empty) = some (7, Tables.empty) ∧ crossCheck Tables.empty = none ∧
    crossCheck { rows with zone := [] } = some (5, 0) := by decide +kernel

theorem witness_ResetAndPowerLoss :
    (after .powerLoss idle).live = false ∧ Instr.status 1 [] ∉ [Instr.powerOn, .resetAssert, .resetRelease, .powerLoss] := by
  decide +kernel

theorem witness_StartUpEnds :
    (startWith rows).live = true ∧ (startWith rows).mc.mode = .start ∧ rows.general.autoSurvey = false ∧
    ({ rows with general := { autoSurvey := true } } : Tables).poll ≠ [] ∧ idle.mc.mode ≠ .start := by decide +kernel

theorem witness_SaveAndItsWrite :
    Heard idle 1 ∧ idle.tb.pendingCommit = none ∧ idle.cs.saveWrite = none ∧ (committing walking).tb.pendingCommit ≠ none ∧
    Heard (committing walking) 1 ∧ (after (.save 1 []) idle).cs.saveWrite.isSome = true ∧
    (after (.save 1 []) idle).live = true := by decide +kernel

theorem witness_CycleTimerExpires :
    waiting.live = true ∧ waiting.ps.timer = .running 5000 ∧ waiting.ps.phase = .waiting ∧ walking.ps.phase = .walking ∧
    (idle.setPs { idle.ps with timer := .running 500 }).ps.phase = .halted ∧ idle.ps.timer = .stopped ∧
    waiting.mc.mode = .survey ∧ (openCycle waiting).ti.exchange.isSome = true ∧
    (openCycle (waiting.setTb { waiting.tb with active := { rows with poll := [(1, .relay)] } })).ps.phase = .waiting := by
  decide +kernel

/-- R52 at fresh 3, 2 and 1; either order of the count-down and a commit leaves the same readings (R117). -/
theorem witness_CycleTimerExpires_countDown :
    let s := measured waiting
    s.tb.pendingCommit = none ∧ (committing s).mc.mode = .survey ∧
    (committing s).tb.pendingCommit.isSome = true ∧ Keyed.wf s.si.readings ∧
    (openCycle s).si.readings.map (fun e => (e.1, e.2.fresh, e.2.quality)) =
      [(10, 2, .good), (11, 1, .good), (12, 0, .stale)] ∧
    (countDown (takeCommit { rows with pair := [] } s)).si = (takeCommit { rows with pair := [] } (countDown s)).si := by
  and_intros <;> decide +kernel

theorem witness_PollFrameIsSent :
    walking.live = true ∧ (walking.ti.exchange.map fun x => x.phase) = some .due ∧
    ((after .trunkFrameSend walking).ti.exchange.map fun x => x.phase) = some .sending ∧ idle.ti.exchange = none ∧
    (walking.ti.exchange.map fun x => x.frameBytes.take 4) = some [0xA5, 9, 1, 0] ∧
    walking.sentOn .a = [] ∧ ((after .trunkFrameSend walking).sentOn .a).length = 60 ∧
    ((after .trunkFrameSend walking).sentOn .b).take 10 = lineLevels [0xA5] := by decide +kernel

theorem witness_LinesConclude :
    gradeLine 9 true (cleanly (replyFrame 9 .empty)) = .ended (.good .empty) ∧
    gradeLine 9 false (cleanly [0x5A]) = .unfinished ∧ gradeLine 9 false (cleanly [0xA5]) = .notStarted ∧
    gradeLine 9 true [heardAfter .gap 0x5A] = .notStarted ∧ (polled walking).live = true ∧
    ((polled walking).ti.exchange.map fun x => (x.phase, x.timedOut)) = some (.listening, false) ∧
    ((after (.replyTimeout .quiet .started) (polled walking)).ti.exchange.map fun x => (x.phase, x.timedOut)) =
      some (.listening, true) ∧
    (walking.ti.exchange.map fun x => x.phase) ≠ some .listening ∧ idle.ti.exchange = none := by decide +kernel

theorem witness_ExchangeCompletes :
    let relayed := (visitRow 1 .relay (relaying waiting)).1
    (walking.ti.exchange.map fun x => (x.kind, x.node)) = some (.poll, 9) ∧ walking.ti.nodes.get 9 = some {} ∧
    (relayed.ti.exchange.map fun x => (x.kind, x.node)) = some (.relay, 40) ∧ relayed.ru.inFlight.isSome = true := by
  decide +kernel

/-- R51, R89, R90, R102: a FAULT reply loses the channels and drops the judged pair with the quality of the first of its
inputs in the lost list, an EMPTY reply changes nothing, and a new block evaluates the pair by its surface. -/
theorem witness_ExchangeCompletes_lists :
    let notice : Taken → Notice := fun taken => { node := 9, line := some .a, marked := false, taken := taken }
    let state := fun (s : State) => (s.pe.pairs.get 0).map fun r => r.state
    alarmed.tb.active.installable ∧ state alarmed = some (.judged .wet) ∧
    state (intakeEvent (notice (.fault 3)) alarmed) = some (.unknown .inputFault) ∧
    state (dropLost [(11, .stale), (12, .fault)] alarmed (0, ⟨10, 11, 12, 3, 2⟩)) = some (.unknown .inputStale) ∧
    state (dropLost [(9, .fault)] alarmed (0, ⟨10, 11, 12, 3, 2⟩)) = some (.judged .wet) ∧
    state (intakeEvent (notice .empty) (measured walking)) = some (.unknown .new) ∧
    state (intakeEvent (notice (.newBlock [{ slot := 2, status := .ok, raw := 27440 }])) (measured walking)) =
      some (.judged .wet) ∧
    state (intakeEvent (notice (.newBlock [{ slot := 0, status := .ok, raw := 35714 }])) (measured walking)) =
      some (.unknown .new) := by
  and_intros <;> decide +kernel

/-- Every state of the receiver that a clause names, with a held frame, a load sequence and a summary sequence where it
names one. -/
theorem witness_UplinkLineEvents :
    let at' := fun r => loading (reading 1 8 (idle.setUi { idle.ui with receiver := r }))
    (∀ r ∈ [Receiver.off, .waitIdle, .ready, .receiving, .space, .broken, .responding, .other],
      (at' r).live = true ∧ (at' r).ui.receiver = r ∧ (at' r).tb.load.isSome = true ∧ (at' r).zm.summary.isOpen = true) ∧
    (after (.breakCharacter []) (at' .receiving)).ui.heldFrame = some [] ∧
    (after (.breakCharacter []) (at' .ready)).ui.heldFrame = some [] ∧
    (after (.breakCharacter []) (at' .waitIdle)).ui.heldFrame = none ∧
    (after .responseSend (after (.status 1 []) idle)).ui.dir = true ∧ idle.tb.load = none ∧
    idle.zm.summary.isOpen = false ∧ Request.ofCode 0x07 = none ∧ (0 : Half) ≠ check16 [1, 1, 0] := by decide +kernel

theorem witness_RequestFrames :
    (after .powerLoss idle).live = false ∧ (startWith rows).ui.receiver = .off ∧ idle.live = true ∧
    idle.ui.receiver = .ready ∧ Heard idle 1 ∧ (2 : Byte).toNat ≠ idle.tb.active.general.uplinkAddress ∧
    (240 < (List.replicate 241 (0 : Byte)).length) ∧ Request.lengths .skip = (2, 2) := by decide +kernel

theorem witness_ReadsChangeNothing :
    Heard idle 1 ∧ ((1 : Byte).toNat = 1 ∧ (126 : Byte).toNat = 126 ∧ (8 : Byte).toNat = 8) ∧
    (127 : Byte).toNat + (1 : Byte).toNat = 128 ∧ (112 : Byte).toNat + (16 : Byte).toNat = 128 ∧
    (63 : Byte).toNat + (1 : Byte).toNat = 64 ∧ (95 : Byte).toNat + (1 : Byte).toNat = TableId.capacity .poll ∧
    (0 : Byte).toNat + (1 : Byte).toNat = TableId.capacity .general ∧
    TableId.capacity .general < (0 : Byte).toNat + (2 : Byte).toNat ∧ (4 : Byte) = byte (TableId.code .general) := by
  decide +kernel

/-- The records and codes of R197 to R199 where each of their parts is present and where it is not. -/
theorem witness_ReadsChangeNothing_records :
    let s := alarmed
    s.tb.active.probe.get 9 = none ∧ s.tb.active.pair.get 1 = none ∧ (s.si.readings.get 12).isSome = true ∧
    readingRecord s 12 = [12, 2, 1, 3, 0x04, 0x9C, 0, 1, 0, 0] ∧
    pairRecordBytes s 0 = [0x1C, 0x9C, 0xD1, 0, 0, 1, 0x08, 0x66, 0x15, 0x90, 0x04, 0x9C, 0xFF, 0xE3] ∧
    pairRecordBytes idle 0 = [0x1C, 0, 0, 0] ∧
    nodeRecordBytes 40 { quarantined := true, activeLine := .b, otherOnly := 15, failRun := 4, lastOutcomeA := some .good
                         lastReplyKind := some .answer, failTotalB := 0x0102 } =
      [40, 5, 0, 0xF4, 0x6F, 4, 0, 0, 0, 1, 2, 0, 0] ∧
    (TableRows.pair rows.pair).rowBytes 0 = some [10, 11, 12, 3, 2] ∧ (TableRows.pair rows.pair).rowBytes 1 = none ∧
    (staged idle).tb.staged.readySet = 4 := by decide +kernel

theorem witness_SkipAndForces :
    let forced := listening (after (.forceSet 1 [12, 1, 0xFF, 0x9C]) idle)
    let full := idle.setSi { idle.si with forces := (List.range 16).map fun k => (k + 16, { value := 0, kind := .pin }) }
    Heard idle 1 ∧ idle.ti.nodes.get 126 = none ∧ idle.ti.nodes.get 40 = some {} ∧ idle.tb.active.probe.get 127 = none ∧
    idle.tb.active.probe.get 12 = some channel12 ∧ (0xF0#8 ++ 0x60#8).toInt = -4000 ∧
    (0xF0#8 ++ 0x5F#8).toInt = -4001 ∧ (0x17#8 ++ 0x70#8).toInt = 6000 ∧ Heard full 1 ∧
    full.si.forces.length = 16 ∧ full.si.forces.get 12 = none ∧ Heard forced 1 ∧ Keyed.wf forced.si.forces ∧
    forced.si.forces.get 12 = some { value := -100, kind := .pin } := by decide +kernel

theorem witness_SummaryAndAlerts :
    let broken := idle.setZm { idle.zm with summary := { idle.zm.summary with broken := true } }
    Heard (reading 0 0 idle) 1 ∧ (reading 0 0 idle).zm.summary.isOpen = true ∧ Heard idle 1 ∧ idle.zm.summary.isOpen = false ∧
    idle.zm.summary.broken = false ∧ Heard broken 1 ∧ broken.zm.summary.broken = true ∧
    (reading 0 0 idle).zm.summary.nextRecord + 8 < (reading 0 0 idle).zm.bank.records.length ∧
    (reading 0 1 idle).zm.bank.records.length ≤ (reading 0 1 idle).zm.summary.nextRecord + 8 := by decide +kernel

/-- R198: a batch that is the last, one that is not, with a worst margin and without, and an alert. -/
theorem witness_SummaryAndAlerts_records :
    summaryPayload { publicationCycle := some 0x0102, records := [(3, recompute 0 membersOf3)] } 0 4 =
      [1, 2, 3, 1, 4, 1, 3, 0x83, 1, 0, 1, 1, 0, 0, 80, 1] ∧
    (summaryPayload (reading 0 0 idle).zm.bank 0 0).take 6 = [0, 1, 1, 9, 0, 8] ∧
    summaryPayload (reading 0 0 idle).zm.bank 8 0 = [0, 1, 3, 9, 0, 1, 8, 1, 0, 0, 0, 0, 0, 0, 0, 0xFF] ∧
    alarmed.zm.alerts.map alertBytes = [[3, 0x81, 4, 1, 0, 1, 0, 1], [6, 1, 0x83, 1, 0, 7, 0, 7]] := by decide +kernel

theorem witness_LoadRequests :
    let good : List Byte := [1, 0, 10, 11, 12, 3, 7]
    let bad : List Byte := [3, 0, 0, 0, 0, 0, 0]
    idle.tb.load = none ∧ (loading idle).tb.load = some { working := .pair rows.pair, prior := none } ∧
    (staged idle).tb.staged.copy .pair = .ready (.pair []) ∧ (committing walking).tb.pendingCommit ≠ none ∧
    Heard (committing walking) 1 ∧ Heard idle 1 ∧ Heard (loading idle) 1 ∧ loadEntries .pair [1] = none ∧
    loadEntries .pair (good ++ bad) = some ([good] ++ [bad]) ∧
    ([good].foldlM TableRows.applyEntry (.pair rows.pair)).isSome = true ∧
    (TableRows.pair []).applyEntry bad = none := by decide +kernel

/-- R134, R135: an index at its table's end and one past it, a DELETE of a row that is not there and of GENERAL's, a row that
is not well formed, and an op that is neither. -/
theorem witness_LoadRequests_entries :
    (TableRows.pair []).applyEntry [1, 63, 1, 2, 3, 4, 7] =
      some (.pair [(63, { airT := 1, airRh := 2, surface := 3, zone := 4, skewLimit := 7 })]) ∧
    (TableRows.pair []).applyEntry [1, 64, 1, 2, 3, 4, 7] = none ∧ (TableRows.pair []).applyEntry [1, 0, 1, 2, 3, 4, 8] = none ∧
    (TableRows.pair rows.pair).applyEntry [2, 0, 0, 0, 0, 0, 0] = some (.pair []) ∧
    (TableRows.pair rows.pair).applyEntry [2, 1, 0, 0, 0, 0, 0] = some (.pair rows.pair) ∧
    (TableRows.pair []).applyEntry [0, 0, 1, 2, 3, 4, 7] = none ∧
    (TableRows.general {}).applyEntry [2, 0, 0, 0, 0, 0, 0, 0, 0] = none ∧
    (TableRows.general {}).applyEntry [1, 0, 9, 0, 50, 0, 4, 8, 3] = some (.general { uplinkAddress := 9 }) := by decide +kernel

theorem witness_CommitDecides :
    let broken := idle.setTb { idle.tb with staged := { idle.tb.staged with zone := .ready [] } }
    Heard (committing walking) 1 ∧ Heard idle 1 ∧ (loading idle).tb.load ≠ none ∧ (staged idle).cs.saveWrite = none ∧
    (∀ t ∈ [TableId.poll, .probe, .pair, .zone, .general], (idle.tb.staged.copy t).isReady = false) ∧
    ((staged idle).tb.staged.copy .pair).isReady = true ∧ crossCheck broken.tb.candidate = some (5, 0) ∧
    crossCheck (staged idle).tb.candidate = none ∧ (staged walking).mc.mode ≠ .idle := by decide +kernel

/-- R141: a set that passes, one that breaks each check alone, at the lowest index that does, and one that breaks all. -/
theorem witness_CommitDecides_checks :
    crossCheck rows = none ∧ Keyed.wf rows.poll ∧ Keyed.wf rows.probe ∧ Keyed.wf rows.pair ∧
    crossCheck { rows with poll := rows.poll ++ [(3, .poll 9 10 false), (95, .poll 40 10 false)] } = some (1, 3) ∧
    crossCheck { rows with probe := rows.probe ++ [(20, channel12), (127, channel10)] } = some (2, 20) ∧
    crossCheck { rows with poll := [(2, .poll 40 50 false)] } = some (3, 10) ∧
    crossCheck { rows with pair := [(0, ⟨10, 11, 12, 3, 2⟩), (5, ⟨10, 12, 12, 3, 2⟩), (6, ⟨10, 11, 9, 3, 2⟩)] } = some (4, 5) ∧
    crossCheck { rows with pair := rows.pair ++ [(63, ⟨10, 11, 12, 4, 2⟩)] } = some (5, 63) ∧
    crossCheck { rows with poll := [(0, .poll 8 10 false), (1, .poll 8 10 false)], probe := [], zone := [] } = some (1, 1) := by
  decide +kernel

theorem witness_ModeRestartCounters :
    Heard idle 1 ∧ Heard walking 1 ∧ Heard waiting 1 ∧ Heard stopping 1 ∧ idle.ps.phase = .halted ∧
    idle.tb.active.poll ≠ [] ∧ (listening (after .startUpEnd State.reset)).tb.active.poll = [] ∧
    walking.mc.mode = .survey ∧ walking.ps.phase = .walking ∧ waiting.ps.phase = .waiting ∧ stopping.mc.mode = .stopping ∧
    (0 : Byte) ≠ 1 ∧ (3 : Byte) ≠ 2 := by decide +kernel

theorem witness_RelayRequests :
    let s := relaying walking
    Heard s 1 ∧ s.mc.mode ≠ .idle ∧ idle.mc.mode = .idle ∧ (∃ e ∈ s.tb.active.poll, e.2 = PollRow.relay) ∧
    (¬ ∃ e ∈ candidate.poll, e.2 = PollRow.relay) ∧ (s.ru.place 1).code = 1 ∧ (s.ru.place 3).code = 3 ∧ (s.ru.place 2).code = 0 ∧
    ((visitRow 1 .relay s).1.ru.place 1).code = 2 ∧ (s.ru.results.map fun r => r.tag) = [3] ∧ walking.ru.results = [] ∧
    s.ru.results.map relayResultBytes = [[3, 40, 0, 4, 0, 0x60, 0, 0, 5, 1, 8]] := by
  decide +kernel

end Sys2Proof.Tests
end

/-! SUPPORT. A node's record at the completion of a POLL exchange: the reply taken (R11), the four rules that update the record
(R12, R13, R15, R16), each on fields of its own, and the statement O41 that they come to. -/

namespace Sys2Proof.Machine

/-! ### The reply taken -/

/-- The reply of the node's active line, if that line is usable (R10, R11). -/
abbrev NodeRecord.ownReply (r : NodeRecord) (accept : Bool) (a b : Conclusion) : Option (Bool × Reply) :=
  (pickLine r.activeLine a b).usable accept

/-- The reply of the node's other line, if that line is usable (R10, R11). -/
abbrev NodeRecord.otherReply (r : NodeRecord) (accept : Bool) (a b : Conclusion) : Option (Bool × Reply) :=
  (pickLine (otherLine r.activeLine) a b).usable accept

/-- The reply taken, with whether its frame was MARKED (R11). -/
abbrev NodeRecord.takenReply (r : NodeRecord) (accept : Bool) (a b : Conclusion) : Option (Bool × Reply) :=
  (r.ownReply accept a b).or (r.otherReply accept a b)

/-- R10: no line is usable whose outcome is neither GOOD nor MARKED. -/
theorem usable_eq_none {c : Conclusion} (accept : Bool) (hg : c.outcome ≠ .good) (hm : c.outcome ≠ .marked) :
    c.usable accept = none := by
  cases c with
  | good => exact absurd rfl hg
  | marked => exact absurd rfl hm
  | silent | collision | length | check | stray => rfl

theorem otherLine_ne (l : Line) : otherLine l ≠ l := by cases l <;> decide

section
variable {r : NodeRecord} {accept : Bool} {a b : Conclusion}

/-- R11: a usable active line gives the reply. -/
theorem takeReply_of_own {x : Bool × Reply} (h : r.ownReply accept a b = some x) :
    takeReply accept r.activeLine a b = some (r.activeLine, x) := by
  simp only [takeReply, h]

/-- R11: the other line gives the reply only where the active line is not usable. -/
theorem takeReply_of_other {x : Bool × Reply} (ho : r.ownReply accept a b = none)
    (h : r.otherReply accept a b = some x) :
    takeReply accept r.activeLine a b = some (otherLine r.activeLine, x) := by
  simp only [takeReply, ho, h]

theorem takeReply_of_neither (ho : r.ownReply accept a b = none) (h : r.otherReply accept a b = none) :
    takeReply accept r.activeLine a b = none := by
  simp only [takeReply, ho, h]

/-- Without its line, what the model takes is the reply taken. -/
theorem takeReply_map_snd (r : NodeRecord) (accept : Bool) (a b : Conclusion) :
    (takeReply accept r.activeLine a b).map Prod.snd = r.takenReply accept a b := by
  cases ho : r.ownReply accept a b with
  | some x => simp [takeReply_of_own ho, NodeRecord.takenReply, ho]
  | none =>
    cases hx : r.otherReply accept a b with
    | some x => simp [takeReply_of_other ho hx, NodeRecord.takenReply, ho, hx]
    | none => simp [takeReply_of_neither ho hx, NodeRecord.takenReply, ho, hx]

theorem takeReply_of_taken {x : Bool × Reply} (h : r.takenReply accept a b = some x) :
    ∃ l, takeReply accept r.activeLine a b = some (l, x) := by
  rw [← takeReply_map_snd, Option.map_eq_some_iff] at h
  obtain ⟨⟨l, y⟩, hy, rfl⟩ := h
  exact ⟨l, hy⟩

theorem takeReply_isSome (r : NodeRecord) (accept : Bool) (a b : Conclusion) :
    (takeReply accept r.activeLine a b).isSome = (r.takenReply accept a b).isSome := by
  rw [← takeReply_map_snd, Option.isSome_map]

end

/-! ### The four rules, one by one -/

/-- R12: a reply taken from the active line. -/
theorem switchover_active (r : NodeRecord) (k : Nat) :
    r.switchover k (some r.activeLine) = { r with otherOnly := 0 } := by simp [NodeRecord.switchover]

/-- R12: a reply taken from the other line moves the node when the count reaches line_switch_after. -/
theorem switchover_moves {r : NodeRecord} {k : Nat} (h : k ≤ r.otherOnly + 1) :
    r.switchover k (some (otherLine r.activeLine)) =
      { r with otherOnly := 0, activeLine := otherLine r.activeLine } := by
  simp [NodeRecord.switchover, otherLine_ne, h]

/-- R12: below line_switch_after it is only counted. -/
theorem switchover_counts {r : NodeRecord} {k : Nat} (h : r.otherOnly + 1 < k) :
    r.switchover k (some (otherLine r.activeLine)) = { r with otherOnly := r.otherOnly + 1 } := by
  simp [NodeRecord.switchover, otherLine_ne, Nat.not_le.2 h]

/-- R12 names the active line and its count only. -/
theorem switchover_frame (r : NodeRecord) (k : Nat) (t : Option Line) :
    ∃ l n, r.switchover k t = { r with activeLine := l, otherOnly := n } := by
  unfold NodeRecord.switchover
  split
  · exact ⟨r.activeLine, r.otherOnly, rfl⟩
  · split
    · exact ⟨r.activeLine, 0, rfl⟩
    · split
      · exact ⟨_, 0, rfl⟩
      · exact ⟨r.activeLine, _, rfl⟩

/-- R13 neither reads nor writes what R12 updates. -/
theorem toggleStep_with_line (r : NodeRecord) (l : Line) (n : Nat) (t : Taken) :
    { r with activeLine := l, otherOnly := n }.toggleStep t =
      { r.toggleStep t with activeLine := l, otherOnly := n } := by
  cases t <;> rfl

/-- R13 names the expect toggle and the OUT_OF_STEP total only. -/
theorem toggleStep_frame (r : NodeRecord) (t : Taken) :
    r.toggleStep t = { r with
      expectToggle := (r.toggleStep t).expectToggle, outOfStepTotal := (r.toggleStep t).outOfStepTotal } := by
  cases t <;> rfl

/-- R15 neither reads nor writes what R12 and R13 update. -/
theorem quarantineStep_with_line_toggle (r : NodeRecord) (l : Line) (n : Nat) (e : Bool) (o k : Nat) (u : Bool) :
    { r with activeLine := l, otherOnly := n, expectToggle := e, outOfStepTotal := o }.quarantineStep k u =
      { r.quarantineStep k u with activeLine := l, otherOnly := n, expectToggle := e, outOfStepTotal := o } := by
  simp only [NodeRecord.quarantineStep]
  split
  · rfl
  · split
    · rfl
    · split <;> rfl

/-- R15 names the failure run and the quarantine only. -/
theorem quarantineStep_frame (r : NodeRecord) (k : Nat) (u : Bool) :
    r.quarantineStep k u = { r with
      failRun := (r.quarantineStep k u).failRun, quarantined := (r.quarantineStep k u).quarantined } := by
  unfold NodeRecord.quarantineStep
  split
  · rfl
  · split
    · rfl
    · split <;> rfl

/-- The four rules update fields of their own: each acts as it would on the record before the completion. -/
theorem complete_eq (r : NodeRecord) (g : GeneralRow) (accept : Bool) (a b : Conclusion) :
    r.complete g accept a b =
      let t := takeReply accept r.activeLine a b
      let line := r.switchover g.lineSwitchAfter (t.map Prod.fst)
      let toggle := r.toggleStep (takenOf r.expectToggle t)
      let quarantine := r.quarantineStep g.quarantineAfter (r.takenReply accept a b).isSome
      { r.diagnose accept a b ((r.takenReply accept a b).map Prod.snd) with
        activeLine := line.activeLine, otherOnly := line.otherOnly
        expectToggle := toggle.expectToggle, outOfStepTotal := toggle.outOfStepTotal
        failRun := quarantine.failRun, quarantined := quarantine.quarantined } := by
  rw [← takeReply_isSome, ← takeReply_map_snd, Option.map_map]
  simp only [NodeRecord.complete]
  generalize takeReply accept r.activeLine a b = t
  obtain ⟨l, n, hline⟩ := switchover_frame r g.lineSwitchAfter (t.map Prod.fst)
  rw [hline, toggleStep_with_line, toggleStep_frame]
  dsimp only
  rw [quarantineStep_with_line_toggle, quarantineStep_frame]
  rfl

/-! ### The record after a completion -/

section
variable {r : NodeRecord} {g : GeneralRow} {accept : Bool} {a b : Conclusion}

theorem complete_line_of_own (h : (r.ownReply accept a b).isSome = true) :
    (r.complete g accept a b).activeLine = r.activeLine ∧ (r.complete g accept a b).otherOnly = 0 := by
  obtain ⟨x, hx⟩ := Option.isSome_iff_exists.1 h
  simp [complete_eq, takeReply_of_own hx, switchover_active]

theorem complete_line_moves (ho : r.ownReply accept a b = none) (h : (r.otherReply accept a b).isSome = true)
    (hk : g.lineSwitchAfter ≤ r.otherOnly + 1) :
    (r.complete g accept a b).activeLine = otherLine r.activeLine ∧ (r.complete g accept a b).otherOnly = 0 := by
  obtain ⟨x, hx⟩ := Option.isSome_iff_exists.1 h
  simp [complete_eq, takeReply_of_other ho hx, switchover_moves hk]

theorem complete_line_counts (ho : r.ownReply accept a b = none) (h : (r.otherReply accept a b).isSome = true)
    (hk : r.otherOnly + 1 < g.lineSwitchAfter) :
    (r.complete g accept a b).activeLine = r.activeLine ∧
      (r.complete g accept a b).otherOnly = r.otherOnly + 1 := by
  obtain ⟨x, hx⟩ := Option.isSome_iff_exists.1 h
  simp [complete_eq, takeReply_of_other ho hx, switchover_counts hk]

theorem complete_line_of_neither (ho : r.ownReply accept a b = none) (h : r.otherReply accept a b = none) :
    (r.complete g accept a b).activeLine = r.activeLine ∧ (r.complete g accept a b).otherOnly = r.otherOnly := by
  simp [complete_eq, takeReply_of_neither ho h, NodeRecord.switchover]

theorem complete_toggle_of_new {m : Bool} {records : List SampleRecord}
    (h : r.takenReply accept a b = some (m, .data r.expectToggle records)) :
    (r.complete g accept a b).expectToggle = (!r.expectToggle) ∧
      (r.complete g accept a b).outOfStepTotal = r.outOfStepTotal := by
  obtain ⟨l, hl⟩ := takeReply_of_taken h
  simp [complete_eq, hl, takenOf, NodeRecord.toggleStep]

theorem complete_toggle_of_outOfStep {m : Bool} {records : List SampleRecord}
    (h : r.takenReply accept a b = some (m, .data (!r.expectToggle) records)) :
    (r.complete g accept a b).expectToggle = r.expectToggle ∧
      (r.complete g accept a b).outOfStepTotal = satSucc 65535 r.outOfStepTotal := by
  obtain ⟨l, hl⟩ := takeReply_of_taken h
  simp [complete_eq, hl, takenOf, NodeRecord.toggleStep]

/-- R13: only a DATA reply touches the toggle. -/
theorem toggleStep_of_not_data {t : Option (Line × Bool × Reply)} (e : Bool)
    (h : ∀ l m e' records, t ≠ some (l, m, .data e' records)) : r.toggleStep (takenOf e t) = r := by
  match t with
  | none | some (_, _, .empty) | some (_, _, .fault _) | some (_, _, .answer _) => rfl
  | some (l, m, .data e' records) => exact absurd rfl (h l m e' records)

theorem complete_toggle_of_not_data (h : ∀ m t records, r.takenReply accept a b ≠ some (m, .data t records)) :
    (r.complete g accept a b).expectToggle = r.expectToggle ∧
      (r.complete g accept a b).outOfStepTotal = r.outOfStepTotal := by
  have hd : ∀ l m t records, takeReply accept r.activeLine a b ≠ some (l, m, .data t records) := by
    intro l m t records ht
    exact h m t records (by rw [← takeReply_map_snd, ht]; rfl)
  simp [complete_eq, toggleStep_of_not_data r.expectToggle hd]

theorem complete_quarantine_of_taken (h : (r.takenReply accept a b).isSome = true) :
    (r.complete g accept a b).failRun = 0 ∧ (r.complete g accept a b).quarantined = false := by
  simp [complete_eq, h, NodeRecord.quarantineStep]

theorem complete_quarantine_stays (h : r.takenReply accept a b = none) (hq : r.quarantined = true) :
    (r.complete g accept a b).failRun = g.quarantineAfter ∧ (r.complete g accept a b).quarantined = true := by
  simp [complete_eq, h, NodeRecord.quarantineStep, hq]

theorem complete_quarantine_begins (h : r.takenReply accept a b = none) (hq : r.quarantined = false)
    (hk : g.quarantineAfter ≤ r.failRun + 1) :
    (r.complete g accept a b).failRun = g.quarantineAfter ∧ (r.complete g accept a b).quarantined = true := by
  simp [complete_eq, h, NodeRecord.quarantineStep, hq, hk]

theorem complete_quarantine_counts (h : r.takenReply accept a b = none) (hq : r.quarantined = false)
    (hk : r.failRun + 1 < g.quarantineAfter) :
    (r.complete g accept a b).failRun = r.failRun + 1 ∧ (r.complete g accept a b).quarantined = false := by
  simp [complete_eq, h, NodeRecord.quarantineStep, hq, Nat.not_le.2 hk]

theorem complete_replyKind_of_taken {m : Bool} {reply : Reply} (h : r.takenReply accept a b = some (m, reply)) :
    (r.complete g accept a b).lastReplyKind = some reply.kind := by
  simp [complete_eq, NodeRecord.diagnose, h]

theorem complete_replyKind_of_none (h : r.takenReply accept a b = none) :
    (r.complete g accept a b).lastReplyKind = r.lastReplyKind := by
  simp [complete_eq, NodeRecord.diagnose, h]

theorem complete_faultCode_of_fault {m : Bool} {code : Nat} (h : r.takenReply accept a b = some (m, .fault code)) :
    (r.complete g accept a b).lastFaultCode = some code := by
  simp [complete_eq, NodeRecord.diagnose, h]

/-- R16: only a FAULT reply writes the fault code. -/
theorem diagnose_faultCode_of_not_fault {t : Option Reply} (h : ∀ code, t ≠ some (.fault code)) :
    (r.diagnose accept a b t).lastFaultCode = r.lastFaultCode := by
  match t with
  | none | some (.data _ _) | some .empty | some (.answer _) => rfl
  | some (.fault code) => exact absurd rfl (h code)

theorem complete_faultCode_of_not_fault (h : ∀ m code, r.takenReply accept a b ≠ some (m, .fault code)) :
    (r.complete g accept a b).lastFaultCode = r.lastFaultCode := by
  rw [complete_eq]
  refine diagnose_faultCode_of_not_fault (accept := accept) (a := a) (b := b) fun code hc => ?_
  obtain ⟨⟨m, _⟩, ht, rfl⟩ := Option.map_eq_some_iff.1 hc
  exact h m code ht

/-- R16: what the diagnosis writes whatever was taken; and no rule touches the skip count. -/
theorem complete_outcomes_totals (r : NodeRecord) (g : GeneralRow) (accept : Bool) (a b : Conclusion) :
    (r.complete g accept a b).lastOutcomeA = some a.outcome ∧ (r.complete g accept a b).lastOutcomeB = some b.outcome ∧
    (r.complete g accept a b).failTotalA = failTotal r.failTotalA accept a ∧
    (r.complete g accept a b).failTotalB = failTotal r.failTotalB accept b ∧
    (r.complete g accept a b).skipRemaining = r.skipRemaining := by
  rw [complete_eq]
  exact ⟨rfl, rfl, rfl, rfl, rfl⟩

end

/-- Settles O41: the four rules R12, R13, R15 and R16 act on fields of their own (`complete_eq`), so each clause is its rule
on the record before the completion. -/
theorem nodeRecordAtCompletion : Obligations.NodeRecordAtCompletion := by
  refine ⟨fun _ _ => ⟨rfl, rfl, rfl, rfl⟩, fun r g accept a b => ?_⟩
  intro n own other taken
  obtain ⟨hOutcomeA, hOutcomeB, hTotalA, hTotalB, hSkip⟩ := complete_outcomes_totals r g accept a b
  exact
    ⟨fun _ => ⟨rfl, rfl, rfl⟩, fun _ => usable_eq_none accept,
      complete_line_of_own, complete_line_moves, complete_line_counts, complete_line_of_neither,
      fun _ _ => complete_toggle_of_new, fun _ _ => complete_toggle_of_outOfStep, complete_toggle_of_not_data,
      complete_quarantine_of_taken, complete_quarantine_stays, complete_quarantine_begins, complete_quarantine_counts,
      hOutcomeA, hOutcomeB, hTotalA, hTotalB,
      fun _ _ => complete_replyKind_of_taken, complete_replyKind_of_none,
      fun _ _ => complete_faultCode_of_fault, complete_faultCode_of_not_fault, hSkip⟩

end Sys2Proof.Machine

namespace Sys2Proof.Machine

/-! ### Rounding to the nearest, halves away from zero (R41) -/

theorem roundAway_natAbs (n d : Int) :
    (roundAway n d).natAbs = (2 * n.natAbs + d.natAbs) / (2 * d.natAbs) := by
  unfold roundAway
  split
  · rw [Int.natAbs_neg, Int.natAbs_natCast]
  · rw [Int.natAbs_natCast]

/-- R41: a quotient of opposite signs is rounded to a figure that is not positive. -/
theorem roundAway_nonpos {n d : Int} (h : ¬(n < 0 ↔ d < 0)) : roundAway n d ≤ 0 := by
  have hsign : (decide (n < 0) != decide (d < 0)) = true := by simpa using h
  simp only [roundAway, hsign, if_true]
  exact Int.neg_nonpos_of_nonneg (Int.natCast_nonneg _)

/-- R41: a quotient of like signs is rounded to a figure that is not negative. -/
theorem roundAway_nonneg {n d : Int} (h : n < 0 ↔ d < 0) : 0 ≤ roundAway n d := by
  have hsign : (decide (n < 0) != decide (d < 0)) = false := by simpa using h
  simp only [roundAway, hsign]
  exact Int.natCast_nonneg _

/-- A numerator of 0 is rounded to 0 whatever the sign of the denominator. -/
theorem roundAway_zero (d : Int) : roundAway 0 d = 0 := by
  have hdiv : d.natAbs / (2 * d.natAbs) = 0 := Nat.div_eq_zero_iff.2 (by omega)
  rw [← Int.natAbs_eq_zero, roundAway_natAbs, Int.natAbs_zero, Nat.mul_zero, Nat.zero_add, hdiv]

theorem roundAway_nonpos_of_mul_neg {n d : Int} (h : n * d < 0) : roundAway n d ≤ 0 := by
  have hsigns := mul_neg_iff.1 h
  exact roundAway_nonpos (by omega)

theorem roundAway_nonneg_of_mul_nonneg {n d : Int} (hd : d ≠ 0) (h : 0 ≤ n * d) : 0 ≤ roundAway n d := by
  obtain rfl | hn := eq_or_ne n 0
  · exact (roundAway_zero d).ge
  · have hsigns := mul_nonneg_iff.1 h
    exact roundAway_nonneg (by omega)

/-- The rounded quotient times its denominator lies on the numerator's side of 0. -/
theorem roundAway_mul_nonneg {n : Int} (d : Int) (hn : 0 ≤ n) : 0 ≤ roundAway n d * d := by
  obtain hd | hd := lt_or_ge d 0
  · exact mul_nonneg_of_nonpos_of_nonpos (roundAway_nonpos (by omega)) hd.le
  · exact mul_nonneg (roundAway_nonneg (by omega)) hd

theorem roundAway_mul_nonpos {n : Int} (d : Int) (hn : n < 0) : roundAway n d * d ≤ 0 := by
  obtain hd | hd := lt_or_ge d 0
  · exact mul_nonpos_of_nonneg_of_nonpos (roundAway_nonneg (by omega)) hd.le
  · exact mul_nonpos_of_nonpos_of_nonneg (roundAway_nonpos (by omega)) hd

/-- The floor of R41, multiplied out: twice the rounded figure is at most |D| above 2·|N|, and less than |D| below it. -/
theorem roundAway_mul_natAbs_bounds (n : Int) {d : Int} (hd : d ≠ 0) :
    2 * (roundAway n d * d).natAbs ≤ 2 * n.natAbs + d.natAbs ∧
      2 * n.natAbs < 2 * (roundAway n d * d).natAbs + d.natAbs := by
  have hpos : 0 < 2 * d.natAbs := Nat.mul_pos two_pos (Int.natAbs_pos.2 hd)
  have hmul : 2 * (roundAway n d * d).natAbs =
      2 * d.natAbs * ((2 * n.natAbs + d.natAbs) / (2 * d.natAbs)) := by
    rw [Int.natAbs_mul, roundAway_natAbs, Nat.mul_comm _ d.natAbs, Nat.mul_assoc]
  have hlow := Nat.mul_div_le (2 * n.natAbs + d.natAbs) (2 * d.natAbs)
  have hhigh := Nat.lt_mul_div_succ (2 * n.natAbs + d.natAbs) hpos
  rw [Nat.mul_add, Nat.mul_one] at hhigh
  omega

/-- R41: the rounded quotient is within half a unit of N/D, and a half is rounded away from zero. -/
theorem roundAway_nearest (n : Int) {d : Int} (hd : d ≠ 0) :
    2 * (roundAway n d * d - n).natAbs ≤ d.natAbs ∧
      (2 * (roundAway n d * d - n).natAbs = d.natAbs → n.natAbs < (roundAway n d * d).natAbs) := by
  obtain ⟨hlow, hhigh⟩ := roundAway_mul_natAbs_bounds n hd
  obtain hn | hn := lt_or_ge n 0
  · have hside := roundAway_mul_nonpos d hn
    omega
  · have hside := roundAway_mul_nonneg d hn
    omega

/-! ### Clamping (R42) -/

theorem clampTo_of_lt {lo v : Int} (hi : Int) (h : v < lo) : clampTo lo hi v = lo := by simp [clampTo, h]

theorem clampTo_of_gt {lo hi v : Int} (hle : lo ≤ hi) (h : hi < v) : clampTo lo hi v = hi := by
  simp [clampTo, h, (hle.trans_lt h).le]

theorem clampTo_of_mem {lo hi v : Int} (hlo : lo ≤ v) (hhi : v ≤ hi) : clampTo lo hi v = v := by
  simp [clampTo, not_lt.2 hlo, not_lt.2 hhi]

theorem ProbeKind.lowEnd_le_highEnd (k : ProbeKind) : k.lowEnd ≤ k.highEnd := by cases k <;> decide

theorem ProbeKind.inRange_iff {k : ProbeKind} {v : Int} : k.inRange v = true ↔ k.lowEnd ≤ v ∧ v ≤ k.highEnd := by
  simp [ProbeKind.inRange]

/-- No kind's range is wider than 10000 (R38). -/
theorem ProbeKind.span_le (k : ProbeKind) : k.highEnd - k.lowEnd ≤ 10000 := by cases k <;> decide

theorem ProbeKind.natAbs_sub_le {k : ProbeKind} {v w : Int} (hv : k.inRange v = true) (hw : k.inRange w = true) :
    (w - v).natAbs ≤ 10000 := by
  have := k.span_le
  rw [ProbeKind.inRange_iff] at hv hw
  omega

theorem calibratedQuality_good_iff {row : ProbeRow} {raw : Nat} :
    calibratedQuality row raw = .good ↔ calibratedValue row raw = unclampedValue row raw := by
  simp [calibratedQuality]

theorem calibratedQuality_clamped_iff {row : ProbeRow} {raw : Nat} :
    calibratedQuality row raw = .clamped ↔ calibratedValue row raw ≠ unclampedValue row raw := by
  simp [calibratedQuality]

/-! ### The calibration of a well-formed row -/

/-- What calibration needs of a well-formed PROBE row (R131). -/
theorem ProbeRow.calibration_of_wellFormed {row : ProbeRow} (h : row.wellFormed = true) :
    row.rawLo ≤ 65535 ∧ row.rawHi ≤ 65535 ∧ row.rawLo ≠ row.rawHi ∧
      row.kind.inRange row.refLo = true ∧ row.kind.inRange row.refHi = true := by
  simp only [ProbeRow.wellFormed, Bool.and_eq_true, decide_eq_true_eq] at h
  obtain ⟨⟨⟨⟨⟨⟨⟨⟨_, _⟩, hLo⟩, hHi⟩, hne⟩, hRefLo⟩, hRefHi⟩, _⟩, _⟩ := h
  exact ⟨hLo, hHi, hne, hRefLo, hRefHi⟩

/-- R41: |N| is at most 65535·10000. -/
theorem calibration_numerator_le {row : ProbeRow} {raw : Nat} (h : row.wellFormed = true) (hraw : raw ≤ 65535) :
    (((raw : Int) - row.rawLo) * (row.refHi - row.refLo)).natAbs ≤ 655350000 := by
  obtain ⟨hLo, _, _, hRefLo, hRefHi⟩ := ProbeRow.calibration_of_wellFormed h
  have hrise : ((raw : Int) - row.rawLo).natAbs ≤ 65535 := by omega
  rw [Int.natAbs_mul]
  exact Nat.mul_le_mul hrise (ProbeKind.natAbs_sub_le hRefLo hRefHi)

theorem unclampedValue_sub_refLo (row : ProbeRow) (raw : Nat) :
    unclampedValue row raw - row.refLo =
      roundAway (((raw : Int) - row.rawLo) * (row.refHi - row.refLo)) ((row.rawHi : Int) - row.rawLo) :=
  add_sub_cancel_left _ _

/-- Settles O33: the quotient's clauses are the laws of `roundAway` at N and D, the clamp's those of `clampTo` at the
ends of the kind's range. -/
theorem calibrationRounds : Obligations.CalibrationRounds := by
  intro row raw hrow hraw n d q
  obtain ⟨hLo, hHi, hne, _, _⟩ := ProbeRow.calibration_of_wellFormed hrow
  have hd : d ≠ 0 := by omega
  have hdle : d.natAbs ≤ 65535 := by omega
  have hq : q = roundAway n d := unclampedValue_sub_refLo row raw
  obtain ⟨hnearest, hhalf⟩ := roundAway_nearest n hd
  rw [hq]
  exact
    ⟨hd, hdle, calibration_numerator_le hrow hraw, roundAway_natAbs n d,
      roundAway_nonpos_of_mul_neg, roundAway_nonneg_of_mul_nonneg hd,
      hnearest, hhalf,
      clampTo_of_lt _, clampTo_of_gt row.kind.lowEnd_le_highEnd,
      fun hlo hhi => ⟨clampTo_of_mem hlo hhi, calibratedQuality_good_iff.2 (clampTo_of_mem hlo hhi)⟩,
      calibratedQuality_clamped_iff, calibratedQuality_good_iff⟩

end Sys2Proof.Machine

/-! SUPPORT. The arithmetic of the Psychrometric Unit (R72 to R80): the one rounding of stages 2 to 4, the saturation curve
read both ways along its knots, and the statements O30, O31 and O32 that they come to. -/

namespace Sys2Proof.Machine

/-! ### Rounding to the nearest, halves up (R73, R74, R76) -/

/-- N/D to the nearest with halves up, the rounding that stages 2, 3 and 4 share (R81). -/
def halfUp (n d : Int) : Int := (2 * n + d) / (2 * d)

section
variable {n d : Int}

theorem halfUp_nearest (n : Int) (hd : 0 < d) : 2 * n - d < 2 * d * halfUp n d ∧ 2 * d * halfUp n d ≤ 2 * n + d := by
  have hlow := Int.lt_mul_ediv_self_add (x := 2 * n + d) (k := 2 * d) (by omega)
  have hhigh := Int.mul_ediv_self_le (x := 2 * n + d) (k := 2 * d) (by omega)
  unfold halfUp
  omega

/-- A quotient that is a whole number stands as it is. -/
theorem halfUp_mul (k : Int) (hd : 0 < d) : halfUp (k * d) d = k := by
  have hsum : 2 * (k * d) + d = d + 2 * d * k := by ring
  rw [halfUp, hsum, Int.add_mul_ediv_left _ _ (by omega), Int.ediv_eq_zero_of_lt (by omega) (by omega), zero_add]

theorem halfUp_zero (hd : 0 < d) : halfUp 0 d = 0 := by simpa using halfUp_mul 0 hd

theorem halfUp_mono {n' : Int} (hd : 0 < d) (h : n ≤ n') : halfUp n d ≤ halfUp n' d :=
  Int.ediv_le_ediv (by omega) (by omega)

theorem halfUp_nonneg (hd : 0 < d) (h : 0 ≤ n) : 0 ≤ halfUp n d := by
  simpa only [halfUp_zero hd] using halfUp_mono hd h

theorem halfUp_le {k : Int} (hd : 0 < d) (h : n ≤ k * d) : halfUp n d ≤ k := by
  simpa only [halfUp_mul k hd] using halfUp_mono hd h

end

/-! ### The knots (R68) -/

theorem knotTemp_succ (j : Nat) : knotTemp (j + 1) = knotTemp j + 500 := by
  simp only [knotTemp]
  omega

theorem knotTemp_le_of_le {i j : Nat} (h : i ≤ j) : knotTemp i ≤ knotTemp j := by
  simp only [knotTemp]
  omega

theorem knot_le_of_le {i j : Nat} (h : i ≤ j) (hj : j ≤ 11) : knot i ≤ knot j := by
  have table : ∀ j ≤ 11, ∀ i ≤ j, knot i ≤ knot j := by decide
  exact table j hj i h

theorem knot_lt_knot_succ {j : Nat} (hj : j ≤ 10) : knot j < knot (j + 1) := by
  have table : ∀ j ≤ 10, knot j < knot (j + 1) := by decide
  exact table j hj

theorem knot_zero : knot 0 = 2870 := by decide

theorem knot_last : knot 11 = 95800 := by decide

theorem knotRise_pos {j : Nat} (hj : j ≤ 10) : 0 < knotRise j := sub_pos.2 (knot_lt_knot_succ hj)

/-! ### Stage 2: saturation pressure (R73) -/

theorem satPressure_eq (ta : Int) : satPressure ta =
    knot (satInterval ta) + halfUp (knotRise (satInterval ta) * (ta - knotTemp (satInterval ta))) 500 := by
  simp only [satPressure, halfUp, Int.mul_assoc]
  rfl

theorem satInterval_le (ta : Int) : satInterval ta ≤ 10 := Nat.min_le_left _ _

theorem satInterval_mono {ta tb : Int} (h : ta ≤ tb) : satInterval ta ≤ satInterval tb := by
  unfold satInterval
  omega

section
variable {ta : Int}

/-- R73: the offset of an accepted air temperature in its interval lies in 0..500. -/
theorem satInterval_offset (hlo : -1000 ≤ ta) (hhi : ta ≤ 4500) :
    0 ≤ ta - knotTemp (satInterval ta) ∧ ta - knotTemp (satInterval ta) ≤ 500 := by
  unfold satInterval knotTemp
  omega

/-- R73: es10 lies between the knots of its interval. -/
theorem satPressure_between (hlo : -1000 ≤ ta) (hhi : ta ≤ 4500) :
    knot (satInterval ta) ≤ satPressure ta ∧ satPressure ta ≤ knot (satInterval ta + 1) := by
  obtain ⟨hoff, hoff'⟩ := satInterval_offset hlo hhi
  have hrise := knotRise_pos (satInterval_le ta)
  have hnonneg := halfUp_nonneg (d := 500) (by omega) (mul_nonneg hrise.le hoff)
  have hle := halfUp_le (d := 500) (by omega) (mul_le_mul_of_nonneg_left hoff' hrise.le)
  rw [satPressure_eq]
  unfold knotRise at *
  omega

theorem satPressure_nonneg (hlo : -1000 ≤ ta) (hhi : ta ≤ 4500) : 0 ≤ satPressure ta := by
  have hknot := knot_le_of_le (Nat.zero_le (satInterval ta)) ((satInterval_le ta).trans (by decide))
  rw [knot_zero] at hknot
  have hlow := (satPressure_between hlo hhi).1
  omega

/-- R73: es10 does not decrease with the air temperature; between two intervals a knot separates the values. -/
theorem satPressure_mono {tb : Int} (hlo : -1000 ≤ ta) (h : ta ≤ tb) (hhi : tb ≤ 4500) :
    satPressure ta ≤ satPressure tb := by
  obtain heq | hlt := (satInterval_mono h).eq_or_lt
  · have hrise := knotRise_pos (satInterval_le tb)
    rw [satPressure_eq ta, satPressure_eq tb, heq]
    exact add_le_add_right (halfUp_mono (by omega) (mul_le_mul_of_nonneg_left (by omega) hrise.le)) _
  · calc satPressure ta
        ≤ knot (satInterval ta + 1) := (satPressure_between hlo (h.trans hhi)).2
      _ ≤ knot (satInterval tb) := knot_le_of_le hlt ((satInterval_le tb).trans (by decide))
      _ ≤ satPressure tb := (satPressure_between (hlo.trans h) hhi).1

end

/-! ### Stage 3: vapour pressure (R74) -/

theorem vapourPressure_eq_halfUp (es rh : Int) : vapourPressure es rh = halfUp (es * rh) 10000 := by
  unfold vapourPressure halfUp
  omega

theorem vapourPressure_nearest (es rh : Int) :
    es * rh - 5000 < 10000 * vapourPressure es rh ∧ 10000 * vapourPressure es rh ≤ es * rh + 5000 := by
  have hnearest := halfUp_nearest (d := 10000) (es * rh) (by omega)
  rw [vapourPressure_eq_halfUp]
  omega

theorem vapourPressure_zero (es : Int) : vapourPressure es 0 = 0 := by
  rw [vapourPressure_eq_halfUp, mul_zero, halfUp_zero (by omega)]

theorem vapourPressure_saturated (es : Int) : vapourPressure es 10000 = es := by
  rw [vapourPressure_eq_halfUp, halfUp_mul es (by omega)]

/-- R74: the saturation pressure and the humidity enter e10 by their product alone, and e10 does not decrease with it. -/
theorem vapourPressure_mono {es es' rh rh' : Int} (h : es * rh ≤ es' * rh') :
    vapourPressure es rh ≤ vapourPressure es' rh' := by
  rw [vapourPressure_eq_halfUp, vapourPressure_eq_halfUp]
  exact halfUp_mono (by omega) h

theorem vapourPressure_mono_rh {es r r' : Int} (hes : 0 ≤ es) (h : r ≤ r') :
    vapourPressure es r ≤ vapourPressure es r' :=
  vapourPressure_mono (mul_le_mul_of_nonneg_left h hes)

theorem vapourPressure_range {es rh : Int} (hes : 0 ≤ es) (hlo : 0 ≤ rh) (hhi : rh ≤ 10000) :
    0 ≤ vapourPressure es rh ∧ vapourPressure es rh ≤ es :=
  ⟨by simpa only [vapourPressure_zero] using vapourPressure_mono_rh hes hlo,
    by simpa only [vapourPressure_saturated] using vapourPressure_mono_rh hes hhi⟩

/-! ### Stage 4: inverse lookup (R75, R76) -/

/-- A vapour pressure in the interval of stage 4 from knot `j` up to, and without, the next (R76). -/
def OnInterval (e : Int) (j : Nat) : Prop := j ≤ 10 ∧ knot j ≤ e ∧ e < knot (j + 1)

theorem dewIsLow_iff {e : Int} : dewIsLow e = true ↔ e < 2870 := decide_eq_true_iff

/-- The fold of the model is the search for the greatest knot at or below the vapour pressure. -/
theorem lookupKnot_eq_findGreatest (e : Int) : lookupKnot e = Nat.findGreatest (fun k => knot k ≤ e) 11 := by
  have fold : ∀ n, (List.range (n + 1)).foldl (fun j k => if knot k ≤ e then k else j) 0 =
      Nat.findGreatest (fun k => knot k ≤ e) n := by
    intro n
    induction n with
    | zero => simp
    | succ n ih => rw [List.range_succ, List.foldl_append, ih, Nat.findGreatest_succ]; rfl
  exact fold 11

theorem lookupKnot_of_onInterval {e : Int} {j : Nat} (h : OnInterval e j) : lookupKnot e = j := by
  obtain ⟨hj, hlo, hhi⟩ := h
  rw [lookupKnot_eq_findGreatest, Nat.findGreatest_eq_iff]
  refine ⟨by omega, fun _ => hlo, fun k hk hk11 hle => ?_⟩
  have hknot : knot (j + 1) ≤ knot k := knot_le_of_le hk hk11
  omega

theorem lookupKnot_of_high {e : Int} (h : 95800 ≤ e) : lookupKnot e = 11 := by
  rw [lookupKnot_eq_findGreatest]
  exact Nat.findGreatest_eq (knot_last.trans_le h)

/-- R76: from the lowest knot to the last every vapour pressure lies on an interval, at the greatest knot below it. -/
theorem exists_onInterval {e : Int} (hlo : 2870 ≤ e) (hhi : e < 95800) : ∃ j, OnInterval e j := by
  set j := Nat.findGreatest (fun k => knot k ≤ e) 11
  have hle : knot j ≤ e :=
    Nat.findGreatest_spec (P := fun k => knot k ≤ e) (Nat.zero_le 11) (knot_zero.trans_le hlo)
  have hj : j ≤ 11 := Nat.findGreatest_le 11
  have hne : j ≠ 11 := fun h => by rw [h, knot_last] at hle; omega
  refine ⟨j, by omega, hle, not_le.1 fun hnext => ?_⟩
  have hgreatest : j + 1 ≤ j := Nat.le_findGreatest (by omega) hnext
  omega

theorem dewLookup_of_low {e : Int} (h : e < 2870) : dewLookup e = -1000 := if_pos (dewIsLow_iff.2 h)

theorem dewLookup_of_high {e : Int} (h : 95800 ≤ e) : dewLookup e = 4500 := by
  have hlow : ¬dewIsLow e = true := by rw [dewIsLow_iff]; omega
  simp only [dewLookup, hlow, lookupKnot_of_high h, if_true]
  rfl

theorem dewLookup_of_onInterval {e : Int} {j : Nat} (h : OnInterval e j) :
    dewLookup e = knotTemp j + halfUp (500 * (e - knot j)) (knotRise j) := by
  have ⟨hj, hlo, _⟩ := h
  have hknot := knot_le_of_le (Nat.zero_le j) (by omega)
  rw [knot_zero] at hknot
  have hlow : ¬dewIsLow e = true := by rw [dewIsLow_iff]; omega
  have hne : j ≠ 11 := by omega
  simp only [dewLookup, hlow, lookupKnot_of_onInterval h, hne, if_false]
  rfl

/-- R75, R76: the three branches of stage 4. -/
theorem vapour_cases (e : Int) : e < 2870 ∨ (∃ j, OnInterval e j) ∨ 95800 ≤ e := by
  obtain h | hlo := lt_or_ge e 2870
  · exact .inl h
  · obtain h | hhi := lt_or_ge e 95800
    · exact .inr (.inl (exists_onInterval hlo h))
    · exact .inr (.inr hhi)

/-- R76: the dew point lies between the temperatures of the interval's knots. -/
theorem dewLookup_between {e : Int} {j : Nat} (h : OnInterval e j) :
    knotTemp j ≤ dewLookup e ∧ dewLookup e ≤ knotTemp j + 500 := by
  have ⟨hj, hlo, hhi⟩ := h
  have hrise := knotRise_pos hj
  have hnonneg := halfUp_nonneg (n := 500 * (e - knot j)) hrise (by omega)
  have hle := halfUp_le (n := 500 * (e - knot j)) (k := 500) hrise (by unfold knotRise; omega)
  rw [dewLookup_of_onInterval h]
  omega

theorem dewLookup_range (e : Int) : -1000 ≤ dewLookup e ∧ dewLookup e ≤ 4500 := by
  obtain hlow | ⟨j, h⟩ | hhigh := vapour_cases e
  · rw [dewLookup_of_low hlow]
    omega
  · have hj := h.1
    have hbetween := dewLookup_between h
    unfold knotTemp at hbetween
    omega
  · rw [dewLookup_of_high hhigh]
    omega

/-- R76: at a knot's pressure the dew point is the knot's temperature. -/
theorem dewLookup_knot {k : Nat} (hk : k ≤ 11) : dewLookup (knot k) = knotTemp k := by
  obtain rfl | hlt := hk.eq_or_lt
  · exact dewLookup_of_high knot_last.ge
  · have hk10 : k ≤ 10 := Nat.lt_succ_iff.1 hlt
    rw [dewLookup_of_onInterval ⟨hk10, le_rfl, knot_lt_knot_succ hk10⟩, sub_self, mul_zero,
      halfUp_zero (knotRise_pos hk10), add_zero]

theorem onInterval_mono {e f : Int} {i j : Nat} (he : OnInterval e i) (hf : OnInterval f j) (h : e ≤ f) : i ≤ j := by
  obtain ⟨hi, hlo, _⟩ := he
  obtain ⟨_, _, hhi⟩ := hf
  by_contra hlt
  have hknot := knot_le_of_le (i := j + 1) (j := i) (by omega) (by omega)
  omega

/-- R76: within one interval the rounding does not decrease; between two a knot's temperature separates the values. -/
theorem dewLookup_mono_onInterval {e f : Int} {i j : Nat} (he : OnInterval e i) (hf : OnInterval f j) (h : e ≤ f) :
    dewLookup e ≤ dewLookup f := by
  obtain rfl | hlt := (onInterval_mono he hf h).eq_or_lt
  · rw [dewLookup_of_onInterval he, dewLookup_of_onInterval hf]
    exact add_le_add_right (halfUp_mono (knotRise_pos he.1) (by omega)) _
  · calc dewLookup e
        ≤ knotTemp i + 500 := (dewLookup_between he).2
      _ = knotTemp (i + 1) := (knotTemp_succ i).symm
      _ ≤ knotTemp j := knotTemp_le_of_le hlt
      _ ≤ dewLookup f := (dewLookup_between hf).1

/-- R75, R76: the dew point does not decrease with the vapour pressure, across the ends of the table too. -/
theorem dewLookup_mono {e f : Int} (h : e ≤ f) : dewLookup e ≤ dewLookup f := by
  obtain hlow | ⟨i, he⟩ | hhigh := vapour_cases e
  · rw [dewLookup_of_low hlow]
    exact (dewLookup_range f).1
  · obtain hlow' | ⟨j, hf⟩ | hhigh' := vapour_cases f
    · rw [dewLookup_of_low (h.trans_lt hlow'), dewLookup_of_low hlow']
    · exact dewLookup_mono_onInterval he hf h
    · rw [dewLookup_of_high hhigh']
      exact (dewLookup_range e).2
  · rw [dewLookup_of_high hhigh, dewLookup_of_high (hhigh.trans h)]

/-! ### Stage 5: the limit (R77) -/

theorem dewPoint_range {ta : Int} (rh : Int) (hlo : -1000 ≤ ta) :
    -1000 ≤ dewPoint ta rh ∧ dewPoint ta rh ≤ 4500 := by
  obtain ⟨hdew, hdew'⟩ := dewLookup_range (vapourPressure (satPressure ta) rh)
  exact ⟨le_min hdew hlo, (min_le_left _ _).trans hdew'⟩

theorem dewPoint_le_ta (ta rh : Int) : dewPoint ta rh ≤ ta := min_le_right _ _

/-- R78: the dew point does not decrease with the air temperature or the relative humidity, because no stage of it does. -/
theorem dewPoint_mono {ta tb rh rh' : Int} (hlo : -1000 ≤ ta) (hta : ta ≤ tb) (hhi : tb ≤ 4500) (hrh : 0 ≤ rh)
    (hrh' : rh ≤ rh') : dewPoint ta rh ≤ dewPoint tb rh' := by
  have hsat := satPressure_mono hlo hta hhi
  have hnonneg := satPressure_nonneg (hlo.trans hta) hhi
  exact min_le_min (dewLookup_mono (vapourPressure_mono (mul_le_mul hsat hrh' hrh hnonneg))) hta

/-! ### Stage 7: the projection (R79, R80) -/

theorem projectedMargin_isSome_iff {m : Int} {history : List Int} {lookahead : Nat} :
    (projectedMargin m history lookahead).isSome = true ↔ 3 ≤ history.length ∧ 0 < lookahead := by
  cases history with
  | nil => simp [projectedMargin]
  | cons oldest rest =>
    unfold projectedMargin
    split <;> simp_all

theorem projectedMargin_cons {m oldest p : Int} {rest : List Int} {lookahead : Nat}
    (h : projectedMargin m (oldest :: rest) lookahead = some p) :
    p = clampTo (-9999) 9999 (m + ((m - oldest) * lookahead).tdiv (oldest :: rest).length) := by
  obtain ⟨_, hp⟩ := Option.ite_none_right_eq_some.1 h
  exact (Option.some.inj hp).symm

theorem clampTo_eq_max_min {lo hi : Int} (h : lo ≤ hi) (v : Int) : clampTo lo hi v = max lo (min hi v) := by
  unfold clampTo
  omega

/-- R80: truncation toward zero divides the magnitudes. -/
theorem natAbs_slope (rise : Int) (lookahead n : Nat) :
    ((rise * lookahead).tdiv n).natAbs = rise.natAbs * lookahead / n := by
  rw [Int.natAbs_tdiv, Int.natAbs_mul, Int.natAbs_natCast, Int.natAbs_natCast]
  rfl

theorem slope_nonneg {rise : Int} (lookahead n : Nat) (h : 0 ≤ rise) : 0 ≤ (rise * lookahead).tdiv n :=
  Int.tdiv_nonneg (mul_nonneg h (Int.natCast_nonneg _)) (Int.natCast_nonneg _)

theorem slope_nonpos {rise : Int} (lookahead n : Nat) (h : rise ≤ 0) : (rise * lookahead).tdiv n ≤ 0 := by
  have hneg := slope_nonneg lookahead n (neg_nonneg.2 h)
  rwa [neg_mul, Int.neg_tdiv, neg_nonneg] at hneg

/-! ### A computation (R70 to R72) -/

theorem airInRange_iff {ta : Int} : airInRange ta = true ↔ -1000 ≤ ta ∧ ta ≤ 4500 := by simp [airInRange]

/-- R72: stage 1 decides alone whether the result is AIR_RANGE. -/
theorem compute_eq_airRange_iff {x : PairInputs} {history : List Int} {lookahead : Nat} :
    compute x history lookahead = .airRange ↔ ¬airInRange x.ta = true := by
  unfold compute
  split <;> simp_all

/-- What a computation that is not AIR_RANGE says of its inputs and its figures. -/
theorem computed_cases {x : PairInputs} {history : List Int} {lookahead : Nat} {td m : Int} {mp : Option Int}
    {dewLow : Bool} (h : compute x history lookahead = .computed td m mp dewLow) :
    (-1000 ≤ x.ta ∧ x.ta ≤ 4500) ∧ td = dewPoint x.ta x.rh ∧ m = x.ts - td ∧
      mp = projectedMargin m history lookahead ∧ dewLow = dewLowFlag x.ta x.rh := by
  have hair : airInRange x.ta = true := by
    by_contra hout
    rw [compute_eq_airRange_iff.2 hout] at h
    exact Computation.noConfusion h
  simp only [compute, hair, if_true, Computation.computed.injEq] at h
  obtain ⟨rfl, rfl, rfl, rfl⟩ := h
  exact ⟨airInRange_iff.1 hair, rfl, rfl, rfl, rfl⟩

/-! ### The statements -/

/-- Settles O30: stages 3 and 4 are the laws of `halfUp` along the intervals of the knots, and stage 5 takes the smaller. -/
theorem dewPointStages : Obligations.DewPointStages := by
  refine ⟨fun x history lookahead => ?airRange,
    fun es rh => ⟨rfl, vapourPressure_nearest es rh⟩,
    fun es => ⟨vapourPressure_zero es, vapourPressure_saturated es⟩,
    fun _ _ => vapourPressure_range, fun _ _ _ => vapourPressure_mono_rh,
    fun e => ⟨dewIsLow_iff, dewLookup_of_low, dewLookup_of_high, dewLookup_range e⟩,
    fun j e hj hlo hhi => ?interval, fun _ => dewLookup_knot, fun _ _ => dewLookup_mono,
    fun x history lookahead td m mp dewLow h => ?limit⟩
  case airRange =>
    rw [compute_eq_airRange_iff, airInRange_iff]
    omega
  case interval =>
    have h : OnInterval e j := ⟨hj, hlo, hhi⟩
    have hdew := dewLookup_of_onInterval h
    have hoffset : dewLookup e - knotTemp j = halfUp (500 * (e - knot j)) (knotRise j) := by omega
    obtain ⟨hlow, hhigh⟩ := halfUp_nearest (500 * (e - knot j)) (knotRise_pos hj)
    rw [← hoffset] at hlow hhigh
    exact ⟨hdew, hlow, hhigh, dewLookup_between h⟩
  case limit =>
    obtain ⟨⟨hlo, _⟩, rfl, _, _, rfl⟩ := computed_cases h
    obtain ⟨hdew, hdew'⟩ := dewPoint_range x.rh hlo
    exact ⟨rfl, rfl, hdew, hdew', dewPoint_le_ta x.ta x.rh⟩

/-- Settles O31: the margin's range is that of the dew point, and it falls as the dew point rises (`dewPoint_mono`). -/
theorem marginFollowsInputs : Obligations.MarginFollowsInputs := by
  refine ⟨fun x history lookahead td m mp dewLow h hts hts' => ?range,
    fun x y hx hy lx ly tx mx ty my px py dx dy h h' hrh hrhs _ htas => ?follows⟩
  case range =>
    obtain ⟨⟨hlo, _⟩, htd, hm, _, _⟩ := computed_cases h
    have hdew := dewPoint_range x.rh hlo
    omega
  case follows =>
    obtain ⟨⟨hlo, _⟩, htx, hmx, _, _⟩ := computed_cases h
    obtain ⟨⟨_, hhi⟩, hty, hmy, _, _⟩ := computed_cases h'
    have hmono := dewPoint_mono hlo htas hhi hrh hrhs
    refine ⟨by omega, fun hta hrheq => ?_⟩
    rw [hta, hrheq] at htx
    omega

/-- Settles O32: the slope term is the model's own truncated quotient, whose magnitude and sign the statement gives. -/
theorem projectionAtLookahead : Obligations.ProjectionAtLookahead := by
  intro x history lookahead td m mp dewLow h
  obtain ⟨_, _, _, hmp, _⟩ := computed_cases h
  refine ⟨hmp ▸ projectedMargin_isSome_iff, fun p oldest rest hp hhistory => ?_⟩
  subst hhistory
  have hvalue := projectedMargin_cons (hmp.symm.trans hp)
  rw [clampTo_eq_max_min (by omega)] at hvalue
  exact ⟨_, natAbs_slope (m - oldest) lookahead _, fun hfall => slope_nonpos _ _ (by omega),
    fun hrise => slope_nonneg _ _ (by omega), hvalue⟩

end Sys2Proof.Machine

/-! SUPPORT. The Alert Queue after an alert (R112) and the Zone Monitor after a notice (R110, R111), and the statement O39 that
they come to. -/

namespace Sys2Proof.Machine

/-! ### Recording an alert (R112) -/

/-- The saturating increment of 0.6 as the smaller of the maximum and the next number. -/
theorem satSucc_eq_min (top n : Nat) : satSucc top n = min top (n + 1) := by
  unfold satSucc
  split <;> omega

/-- What a further alert makes of a zone's entry (R112). -/
def Alert.again (cycle : Half) (after : ZoneRecord) (a : Alert) : Alert :=
  { a with nowLevel := after.level, nowBlind := after.blind, changes := min 255 (a.changes + 1), lastCycle := cycle }

/-- A queue whose entries of one zone take a further alert, each in its place. -/
def againAt (cycle : Half) (zone : Nat) (after : ZoneRecord) (alerts : List Alert) : List Alert :=
  alerts.map fun a => if a.zone = zone then a.again cycle after else a

section
variable {cycle : Half} {zone : Nat} {before after : ZoneRecord} {alerts front back : List Alert} {a : Alert}

theorem againAt_of_absent (h : ∀ a ∈ alerts, a.zone ≠ zone) : againAt cycle zone after alerts = alerts :=
  (List.map_congr_left fun a ha => if_neg (h a ha)).trans (List.map_id' alerts)

theorem againAt_append_cons (hzone : a.zone = zone) :
    againAt cycle zone after (front ++ a :: back) =
      againAt cycle zone after front ++ a.again cycle after :: againAt cycle zone after back := by
  simp [againAt, hzone]

theorem recordAlert_of_absent (h : ∀ a ∈ alerts, a.zone ≠ zone) :
    recordAlert cycle zone before after alerts =
      alerts ++ [{ zone := zone, fromLevel := before.level, fromBlind := before.blind, nowLevel := after.level
                   nowBlind := after.blind, changes := 1, firstCycle := cycle, lastCycle := cycle }] :=
  if_neg (by simpa using h)

theorem recordAlert_of_present (ha : a ∈ alerts) (hzone : a.zone = zone) :
    recordAlert cycle zone before after alerts = againAt cycle zone after alerts := by
  have hany : alerts.any (fun a => a.zone == zone) = true := List.any_eq_true.2 ⟨a, ha, by simpa using hzone⟩
  simp only [recordAlert, hany, if_true, satSucc_eq_min, againAt, Alert.again]

/-- The entries around one entry of a queue without a second entry for any zone are of other zones. -/
theorem zone_ne_of_nodup (hnodup : ((front ++ a :: back).map fun a => a.zone).Nodup) :
    (∀ x ∈ front, x.zone ≠ a.zone) ∧ (∀ x ∈ back, x.zone ≠ a.zone) := by
  rw [List.map_append, List.map_cons, List.nodup_middle, List.nodup_cons] at hnodup
  have hfresh := hnodup.1
  rw [← List.map_append, List.mem_map] at hfresh
  exact ⟨fun x hx hzone => hfresh ⟨x, List.mem_append_left _ hx, hzone⟩,
    fun x hx hzone => hfresh ⟨x, List.mem_append_right _ hx, hzone⟩⟩

/-- As a zone has one entry at most, an alert for it changes that entry alone. -/
theorem recordAlert_in_place (hnodup : ((front ++ a :: back).map fun a => a.zone).Nodup) (hzone : a.zone = zone) :
    recordAlert cycle zone before after (front ++ a :: back) = front ++ a.again cycle after :: back := by
  subst hzone
  obtain ⟨hfront, hback⟩ := zone_ne_of_nodup hnodup
  rw [recordAlert_of_present (by simp) rfl, againAt_append_cons rfl, againAt_of_absent hfront, againAt_of_absent hback]

/-! ### A notice of a zone (R111) -/

theorem alertIfMoved_of_same (hlevel : before.level = after.level) (hblind : before.blind = after.blind) :
    alertIfMoved cycle zone before after alerts = alerts :=
  if_pos ⟨hlevel, hblind⟩

theorem alertIfMoved_of_moved (h : before.level ≠ after.level ∨ before.blind ≠ after.blind) :
    alertIfMoved cycle zone before after alerts = recordAlert cycle zone before after alerts :=
  if_neg (not_and_or.2 h)

theorem zoneNotice_eq {s : State} {row : ZoneRow} (hrow : s.tb.active.zone.get zone = some row)
    (hbefore : s.zm.zones.get zone = some before) :
    zoneNotice zone s = s.setZm { s.zm with
      zones := s.zm.zones.put zone (s.zoneRecord zone row)
      alerts := alertIfMoved s.ps.cycle zone before (s.zoneRecord zone row) s.zm.alerts } := by
  simp only [zoneNotice, hrow, hbefore]

end

/-! ### The statement -/

/-- Settles O39: a queue of distinct zones meets an alert at one entry at most (`recordAlert_in_place`), and a notice is the
one write of `zoneNotice_eq`. -/
theorem alertIsRecorded : Obligations.AlertIsRecorded := by
  refine ⟨fun cycle zone before after alerts hnodup => ⟨recordAlert_of_absent, ?inPlace⟩,
    fun s zone row noted hrow hnoted => ?notice⟩
  case inPlace =>
    rintro front back a rfl hzone _
    exact recordAlert_in_place hnodup hzone
  case notice =>
    intro t new
    have ht : t = s.setZm { s.zm with
        zones := s.zm.zones.put zone new, alerts := alertIfMoved s.ps.cycle zone noted new s.zm.alerts } :=
      zoneNotice_eq hrow hnoted
    rw [ht]
    refine ⟨?recomputed, fun z hz => ?others, fun hlevel hblind => alertIfMoved_of_same hlevel.symm hblind.symm,
      fun hmoved => alertIfMoved_of_moved (hmoved.imp Ne.symm Ne.symm), rfl⟩
    case recomputed => rw [State.setZm_zm, Keyed.get_put, if_pos rfl]
    case others => rw [State.setZm_zm, Keyed.get_put, if_neg hz.symm]

end Sys2Proof.Machine

/-! SUPPORT. What a command that is executed can do: one inversion lemma for the step, one for the commands, one for the owners of
the requests. Proofs over all commands split along these cases. -/

namespace Sys2Proof.Machine

/-! ### A step -/

/-- A step idles on an empty queue, or executes the front command with the queue's rest (notes/assumptions/3.md). -/
theorem step_cases {s t : State} (h : step s = .next t) :
    t = s ∨ ∃ c rest, s.pending = c :: rest ∧ exec c { s with pending := rest } = .next t := by
  unfold step at h
  split at h
  · cases h; exact .inl rfl
  · exact .inr ⟨_, _, ‹_›, h⟩

/-- A law that does not speak of the queue holds after a step when it holds after every command. -/
theorem step_of_exec {P Q : State → Prop} (hidle : ∀ s, P s → Q s) (hrest : ∀ s rest, P s → P { s with pending := rest })
    (hexec : ∀ c s t, P s → exec c s = .next t → Q t) {s t : State} (hs : P s) (h : step s = .next t) : Q t := by
  rcases step_cases h with rfl | ⟨c, rest, _, h⟩
  · exact hidle _ hs
  · exact hexec c _ t (hrest s rest hs) h

/-! ### The owners of the requests -/

/-- What the handling of a request can do to the part before its response is fixed (step 3 of R168). -/
inductive Served : Option Request → State → State → Prop
  | nothing (r : Option Request) (s : State) : Served r s s
  | counters (s : State) :
      Served (some .counters) s ((s.setUi { s.ui with errors := 0, overflow := false }).setPs { s.ps with overruns := 0 })
  | mode (s : State) (b : Byte) (target m : Mode) (htarget : modeTarget b = some target)
      (hafter : modeAfter target s.tb.active.poll s.mc.mode = some m) : Served (some .mode) s (s.setMc { s.mc with mode := m })
  | save (s : State) (n : Nat) (image : List Byte) (hpending : s.tb.pendingCommit = none) (hsave : s.cs.saveWrite = none) :
      Served (some .save) s
        (s.setCs { image := .incomplete, state := .damaged, saveCount := n, saveWrite := some image })
  | restart (s : State) : Served (some .restart) s (s.setMc { s.mc with restartPending := true })
  | skip (s : State) (node n : Nat) (r : NodeRecord) (hr : s.ti.nodes.get node = some r) :
      Served (some .skip) s (s.setTi { s.ti with nodes := s.ti.nodes.put node { r with skipRemaining := n } })
  | forceSet (s : State) (k : Nat) (row : ProbeRow) (f : Force) (hrow : s.tb.active.probe.get k = some row)
      (hrange : row.kind.inRange f.value = true)
      (hroom : s.si.forces.length < Config.forceEntries ∨ (s.si.forces.get k).isSome = true) :
      Served (some .forceSet) s (s.setSi { s.si with forces := s.si.forces.put k f })
  | forceClearAll (s : State) : Served (some .forceClear) s (s.setSi { s.si with forces := [] })
  | forceClear (s : State) (k : Nat) : Served (some .forceClear) s (s.setSi { s.si with forces := s.si.forces.del k })
  | summaryOpen (s : State) (hclosed : s.zm.summary.isOpen = false) : Served (some .summaryOpen) s
      (takeBatch 0 (s.setZm { s.zm with summary := { isOpen := true, nextRecord := 0, held := 0, broken := false } }))
  | summaryNext (s : State) (hopen : s.zm.summary.isOpen = true) :
      Served (some .summaryNext) s (takeBatch s.zm.summary.nextRecord s)
  | summaryClose (s : State) (hopen : s.zm.summary.isOpen = true) : Served (some .summaryClose) s (closeSummary s)
  | brokenTold (r : Option Request) (s : State) (hclosed : s.zm.summary.isOpen = false) (hbroken : s.zm.summary.broken = true) :
      Served r s (s.setZm { s.zm with summary := { s.zm.summary with broken := false } })
  | takeAlerts (s : State) : Served (some .takeAlerts) s (s.setZm { s.zm with alerts := s.zm.alerts.drop 8 })
  | loadOpen (s : State) (t : TableId) (m : LoadMethod) (hpending : s.tb.pendingCommit = none) :
      Served (some .loadOpen) s (s.setTb (s.tb.abandon.openLoad t m))
  | loadRows (s : State) (l : LoadSequence) (entries : List (List Byte)) (rows : TableRows) (hload : s.tb.load = some l)
      (happly : l.working.applyEntries 1 entries = .ok rows) :
      Served (some .loadRows) s (s.setTb { s.tb with load := some { l with working := rows } })
  | loadClose (s : State) (l : LoadSequence) (hload : s.tb.load = some l) :
      Served (some .loadClose) s (s.setTb (s.tb.closeLoad l))
  | loadAbandon (s : State) : Served (some .loadAbandon) s (abandonLoad s)
  | commitTaken (s : State) (hpending : s.tb.pendingCommit = none) (hsave : s.cs.saveWrite = none) (hload : s.tb.load = none)
      (hcheck : crossCheck s.tb.candidate = none) (hidle : s.mc.mode = .idle) :
      Served (some .commit) s (takeCommit s.tb.candidate s)
  | commitPending (s : State) (hsave : s.cs.saveWrite = none) (hload : s.tb.load = none)
      (hcheck : crossCheck s.tb.candidate = none) (hidle : s.mc.mode ≠ .idle) :
      Served (some .commit) s (s.setTb { s.tb with pendingCommit := some s.tb.candidate })
  | relaySend (s : State) (q : RelayRequest) (hfree : s.ru.place q.tag = .nowhere)
      (hroom : s.ru.queue.length < Config.relayQueue) :
      Served (some .relaySend) s (s.setRu { s.ru with queue := s.ru.queue ++ [q] })
  | relayCollect (s : State) (r : RelayResult) (hr : r ∈ s.ru.results) :
      Served (some .relayCollect) s (s.setRu { s.ru with results := s.ru.results.erase r })

theorem serveMode_served (p : List Byte) (s : State) : Served (some .mode) s (serveMode p s).state := by
  unfold serveMode
  split
  · split
    · exact .nothing _ s
    · rename_i b _ target htarget
      split
      · exact .nothing _ s
      · exact .mode s b target _ htarget ‹_›
  · exact .nothing _ s

theorem serveSave_served (p : List Byte) (s : State) : Served (some .save) s (serveSave p s).state := by
  unfold serveSave
  split
  · exact .nothing _ s
  · rename_i h
    simp only [not_or, Option.not_isSome_iff_eq_none] at h
    exact .save s _ _ h.1 h.2

theorem serveSkip_served (p : List Byte) (s : State) : Served (some .skip) s (serveSkip p s).state := by
  unfold serveSkip
  split
  · split
    · split
      · exact .nothing _ s
      · exact .skip s _ _ _ ‹_›
    · exact .nothing _ s
  · exact .nothing _ s

theorem serveForceSet_served (p : List Byte) (s : State) : Served (some .forceSet) s (serveForceSet p s).state := by
  unfold serveForceSet
  split
  · split
    · exact .nothing _ s
    · split
      · exact .nothing _ s
      · split
        · exact .nothing _ s
        · rename_i row hrow
          dsimp only
          split
          · exact .nothing _ s
          · split
            · exact .nothing _ s
            · rename_i hrange hroom
              refine .forceSet s _ row _ hrow (by simpa using hrange) ?_
              rw [not_and_or, Nat.not_le] at hroom
              exact hroom.imp_right Option.isSome_iff_ne_none.2
  · exact .nothing _ s

theorem serveForceClear_served (p : List Byte) (s : State) : Served (some .forceClear) s (serveForceClear p s).state := by
  unfold serveForceClear
  split
  · split
    · exact .forceClearAll s
    · split
      · exact .nothing _ s
      · split
        · exact .nothing _ s
        · exact .forceClear s _
  · exact .nothing _ s

theorem summaryNotOpen_served {s : State} (h : s.zm.summary.isOpen = false) (r : Option Request) :
    Served r s (summaryNotOpen s).state := by
  unfold summaryNotOpen
  split
  · exact .brokenTold r s h ‹_›
  · exact .nothing _ s

theorem serveSummaryOpen_served (p : List Byte) (s : State) : Served (some .summaryOpen) s (serveSummaryOpen p s).state := by
  unfold serveSummaryOpen
  split
  · exact .nothing _ s
  · exact .summaryOpen s (Bool.eq_false_of_not_eq_true ‹_›)

theorem serveSummaryNext_served (p : List Byte) (s : State) : Served (some .summaryNext) s (serveSummaryNext p s).state := by
  unfold serveSummaryNext
  split
  · exact .summaryNext s ‹_›
  · exact summaryNotOpen_served (Bool.eq_false_of_not_eq_true ‹_›) _

theorem serveSummaryClose_served (p : List Byte) (s : State) :
    Served (some .summaryClose) s (serveSummaryClose p s).state := by
  unfold serveSummaryClose
  split
  · exact .summaryClose s ‹_›
  · exact summaryNotOpen_served (Bool.eq_false_of_not_eq_true ‹_›) _

theorem serveLoadOpen_served (p : List Byte) (s : State) : Served (some .loadOpen) s (serveLoadOpen p s).state := by
  unfold serveLoadOpen
  split
  · split
    · split
      · exact .nothing _ s
      · exact .loadOpen s _ _ (by simpa using ‹¬ s.tb.pendingCommit.isSome = true›)
    · exact .nothing _ s
  · exact .nothing _ s

theorem serveLoadRows_served (p : List Byte) (s : State) : Served (some .loadRows) s (serveLoadRows p s).state := by
  unfold serveLoadRows
  split
  · exact .nothing _ s
  · split
    · exact .nothing _ s
    · split
      · exact .nothing _ s
      · exact .loadRows s _ _ _ ‹_› ‹_›

theorem serveLoadClose_served (p : List Byte) (s : State) : Served (some .loadClose) s (serveLoadClose p s).state := by
  unfold serveLoadClose
  split
  · exact .nothing _ s
  · exact .loadClose s _ ‹_›

theorem serveLoadAbandon_served (p : List Byte) (s : State) : Served (some .loadAbandon) s (serveLoadAbandon p s).state := by
  unfold serveLoadAbandon
  split
  · exact .loadAbandon s
  · exact .nothing _ s

theorem serveCommit_served (p : List Byte) (s : State) : Served (some .commit) s (serveCommit p s).state := by
  unfold serveCommit
  dsimp only
  split
  · exact .nothing _ s
  · rename_i hpending
    split
    · exact .nothing _ s
    · rename_i hbusy
      simp only [not_or, Option.not_isSome_iff_eq_none] at hbusy hpending
      split
      · exact .nothing _ s
      · split
        · exact .nothing _ s
        · split
          · exact .commitTaken s hpending hbusy.1 hbusy.2 ‹_› ‹_›
          · exact .commitPending s hbusy.1 hbusy.2 ‹_› ‹_›

theorem serveRelaySend_served (p : List Byte) (s : State) : Served (some .relaySend) s (serveRelaySend p s).state := by
  unfold serveRelaySend
  split
  · split
    · exact .nothing _ s
    · split
      · exact .nothing _ s
      · split
        · exact .nothing _ s
        · split
          · exact .nothing _ s
          · split
            · exact .nothing _ s
            · rename_i hplace
              split
              · exact .nothing _ s
              · rename_i hroom
                exact .relaySend s _ (not_not.1 hplace) (Nat.not_le.1 hroom)
  · exact .nothing _ s

/-- A result that a RELAY_COLLECT finds is one of those held (R158). -/
theorem RelayState.mem_of_find {ru : RelayState} {sel : Option Nat} {r : RelayResult} (h : ru.find sel = some r) :
    r ∈ ru.results := by
  cases sel with
  | none => exact List.mem_of_head? h
  | some tag => exact List.mem_of_find?_eq_some h

theorem serveRelayCollect_served (p : List Byte) (s : State) :
    Served (some .relayCollect) s (serveRelayCollect p s).state := by
  unfold serveRelayCollect
  split
  · split
    · exact .nothing _ s
    · split
      · exact .nothing _ s
      · exact .relayCollect s _ (RelayState.mem_of_find ‹_›)
  · exact .nothing _ s

theorem serveLineReport_state (p : List Byte) (s : State) : (serveLineReport p s).state = s := by
  unfold serveLineReport; (repeat' split) <;> rfl

theorem serveReadReadings_state (p : List Byte) (s : State) : (serveReadReadings p s).state = s := by
  unfold serveReadReadings; (repeat' split) <;> rfl

theorem serveReadPairs_state (p : List Byte) (s : State) : (serveReadPairs p s).state = s := by
  unfold serveReadPairs; (repeat' split) <;> rfl

theorem serveReadTable_state (p : List Byte) (s : State) : (serveReadTable p s).state = s := by
  unfold serveReadTable; (repeat' split) <;> rfl

/-- What each owner can do (R168). -/
theorem serve_served (q : Request) (p : List Byte) (s : State) : Served (some q) s (q.serve p s).state := by
  cases q with
  | status => exact .nothing _ s
  | counters => exact .counters s
  | ident => exact .nothing _ s
  | mode => exact serveMode_served p s
  | save => exact serveSave_served p s
  | restart => exact .restart s
  | lineReport => rw [Request.serve, serveLineReport_state]; exact .nothing _ s
  | skip => exact serveSkip_served p s
  | readReadings => rw [Request.serve, serveReadReadings_state]; exact .nothing _ s
  | forceSet => exact serveForceSet_served p s
  | forceClear => exact serveForceClear_served p s
  | forceList => exact .nothing _ s
  | readPairs => rw [Request.serve, serveReadPairs_state]; exact .nothing _ s
  | summaryOpen => exact serveSummaryOpen_served p s
  | summaryNext => exact serveSummaryNext_served p s
  | summaryClose => exact serveSummaryClose_served p s
  | takeAlerts => exact .takeAlerts s
  | loadOpen => exact serveLoadOpen_served p s
  | loadRows => exact serveLoadRows_served p s
  | loadClose => exact serveLoadClose_served p s
  | loadAbandon => exact serveLoadAbandon_served p s
  | commit => exact serveCommit_served p s
  | readTable => rw [Request.serve, serveReadTable_state]; exact .nothing _ s
  | relaySend => exact serveRelaySend_served p s
  | relayCollect => exact serveRelayCollect_served p s

/-- What the judging of a request can do (R168, R169): nothing where it is refused by its code or length. -/
theorem judgeRequest_served (r : Option Request) (p : List Byte) (s : State) : Served r s (judgeRequest r p s).state := by
  unfold judgeRequest
  split
  · exact .nothing _ s
  · split
    · exact serve_served _ p s
    · exact .nothing _ s

/-! ### The uplink's own moves -/

/-- What an event of the uplink line that is not a request makes of UI (R166, R167, R176): the receiver leaves a state in which
it neither responds nor is off for another such state, and an error is counted at most. -/
structure UplinkMove (u v : UplinkState) : Prop where
  before : u.receiver ≠ .off ∧ u.receiver ≠ .responding
  after : v.receiver ≠ .off ∧ v.receiver ≠ .responding
  response : v.response = u.response
  dir : v.dir = u.dir
  held : (v.heldFrame = u.heldFrame ∧ u.receiver ≠ .space) ∨ v.heldFrame = none ∨ v.receiver = .space
  errors : v.errors = u.errors ∨ v.errors ≤ 127

/-- The receiver takes frames (R166). -/
def UplinkState.takes (u : UplinkState) : Prop := u.receiver = .ready ∨ u.receiver = .receiving

theorem UplinkState.takes.not_off {u : UplinkState} (h : u.takes) :
    u.receiver ≠ .off ∧ u.receiver ≠ .responding ∧ u.receiver ≠ .space := by
  rcases h with h | h <;> simp [h]

theorem UplinkState.countError_frame (u : UplinkState) :
    u.countError.receiver = u.receiver ∧ u.countError.response = u.response ∧ u.countError.dir = u.dir ∧
    u.countError.heldFrame = u.heldFrame ∧ u.countError.errors ≤ 127 := by
  unfold UplinkState.countError
  split
  · exact ⟨rfl, rfl, rfl, rfl, by simp; omega⟩
  · exact ⟨rfl, rfl, rfl, rfl, Nat.le_refl _⟩

/-- A discarded frame is an uplink move from a receiver that takes frames. -/
theorem discardFrame_move {s : State} (h : s.ui.takes) :
    UplinkMove s.ui { s.ui.countError with receiver := .waitIdle } := by
  obtain ⟨_, hresponse, hdir, hheld, herrors⟩ := s.ui.countError_frame
  obtain ⟨hoff, hresponding, hspace⟩ := h.not_off
  exact ⟨⟨hoff, hresponding⟩, by simp, hresponse, hdir, .inl ⟨hheld, hspace⟩, .inr herrors⟩

/-- A move that changes the receiver alone, not from SPACE. -/
theorem UplinkMove.ofReceiver {u : UplinkState} (r : Receiver)
    (hu : u.receiver ≠ .off ∧ u.receiver ≠ .responding ∧ u.receiver ≠ .space) (hr : r ≠ .off ∧ r ≠ .responding) :
    UplinkMove u { u with receiver := r } :=
  ⟨⟨hu.1, hu.2.1⟩, hr, rfl, rfl, .inl ⟨rfl, hu.2.2⟩, .inl rfl⟩

theorem enterSpace_move {u : UplinkState} (held : Option (List Byte)) (hu : u.receiver ≠ .off ∧ u.receiver ≠ .responding) :
    UplinkMove u { u with receiver := .space, heldFrame := held } :=
  ⟨hu, by simp, rfl, rfl, .inr (.inr rfl), .inl rfl⟩

/-! ### A command -/

/-- The frame of a request reaches the part by a command (notes/assumptions/14.md): the request's own, or one of the three
commands of a frame that is judged by its code. -/
inductive Carries : Instr → Byte → Byte → Option Request → List Byte → Prop
  | own (q : Request) (a : Byte) (p : List Byte) : Carries (q.command a p) a q.code (some q) p
  | other (a code : Byte) (p : List Byte) : Carries (.frameForOtherStation a code p) a code (Request.ofCode code) p
  | unknown (a code : Byte) (p : List Byte) : Carries (.unknownRequestCode a code p) a code (Request.ofCode code) p
  | checked (a code : Byte) (p : List Byte) (k : Half) : Carries (.uplinkCheckFail a code p k) a code (Request.ofCode code) p

/-- The trunk events that change the lines of an exchange whose reply is awaited, with what each does to it (R6 to R9). -/
inductive LineEvent : Instr → (Exchange → Exchange) → Prop
  | ends (l : Line) (shown : List LineSamples) : LineEvent (.lineFrameEnds l shown) (Exchange.hear l shown)
  | gap (l : Line) : LineEvent (.lineFrameGap l) (Exchange.gap l)
  | timeout (a b : TimeoutSight) : LineEvent (.replyTimeout a b) (Exchange.timeout a b)

/-- What a command can do: one case for each kind of effect, with the conditions under which it comes. -/
inductive Effect : Instr → State → State → Prop
  | nothing (c : Instr) (s : State) : Effect c s s
  | powerHeld (s : State) (hreset : s.supply.resetAsserted = true) :
      Effect .powerOn s (cutShort (s.setSupply { s.supply with powered := true }))
  | powerStart (s : State) (hreset : s.supply.resetAsserted = false) :
      Effect .powerOn s (enterStart .power (cutShort (s.setSupply { s.supply with powered := true })))
  | resetAssert (s : State) :
      Effect .resetAssert s (cutShort (releaseLines (s.setSupply { s.supply with resetAsserted := true })))
  | powerLoss (s : State) : Effect .powerLoss s (cutShort (releaseLines (s.setSupply { s.supply with powered := false })))
  | resetStart (s : State) (hreset : s.supply.resetAsserted = true) (hpower : s.supply.powered = true) :
      Effect .resetRelease s (enterStart .power (s.setSupply { s.supply with resetAsserted := false }))
  | resetHeld (s : State) (hreset : s.supply.resetAsserted = true) (hpower : s.supply.powered = false) :
      Effect .resetRelease s (s.setSupply { s.supply with resetAsserted := false })
  | startUp (s : State) (hlive : s.live = true) (hstart : s.mc.mode = .start) : Effect .startUpEnd s (endStart s)
  | restart (s : State) (hlive : s.live = true) (hdue : restartDue s = true) :
      Effect .restartTaken s (enterStart .restart s)
  | written (s : State) (hlive : s.live = true) (result : WriteResult) :
      Effect (.saveWriteEnd result) s (writeEnds result s)
  | timer (s : State) (hlive : s.live = true) : Effect .cycleTimerExpiry s (timerExpires s)
  | frameStarts (s : State) (hlive : s.live = true) : Effect .trunkFrameSend s (frameStarts s)
  | frameSent (s : State) (hlive : s.live = true) : Effect .trunkFrameEnd s (frameSent s)
  | line (s : State) (hlive : s.live = true) (c : Instr) (f : Exchange → Exchange) (hc : LineEvent c f) :
      Effect c s (whileListening f s)
  | loadTimeout (s : State) (hlive : s.live = true) : Effect .loadTimeout s (abandonLoad s)
  | uplink (s : State) (hlive : s.live = true) (c : Instr) (v : UplinkState)
      (hc : c ∉ [Instr.responseSent, .powerOn, .resetRelease, .resetAssert, .powerLoss]) (hmove : UplinkMove s.ui v) :
      Effect c s (s.setUi v)
  | lineBreak (s : State) (hlive : s.live = true) (hspace : s.ui.receiver = .space) : Effect .lineBreak s
      ((breakSummary (abandonLoad s)).setUi { (breakSummary (abandonLoad s)).ui with receiver := .broken, heldFrame := none })
  | responseSend (s : State) (hlive : s.live = true) (hresponding : s.ui.receiver = .responding) :
      Effect .responseSend s (s.setUi { s.ui with dir := true })
  | responseSent (s : State) (hlive : s.live = true) (hresponding : s.ui.receiver = .responding) : Effect .responseSent s
      ((s.setUi { s.ui with receiver := .waitIdle, response := none, dir := false }).setMc
        { s.mc with restartAnswered := s.mc.restartPending })
  | request (s : State) (hlive : s.live = true) (htakes : s.ui.takes) (c : Instr) (a code : Byte) (r : Option Request)
      (p : List Byte) (hc : Carries c a code r p) :
      Effect c s (Request.follow r (respond a code (judgeRequest r p s)))

theorem Carries.not_power {c : Instr} {a code : Byte} {r : Option Request} {p : List Byte} (hc : Carries c a code r p) :
    c ∉ [Instr.responseSent, .powerOn, .resetRelease, .resetAssert, .powerLoss] := by
  cases hc with
  | own q => cases q <;> simp [Request.command]
  | _ => simp

/-- A complete frame's effects (R166, R167), whatever command carries it. -/
theorem frameArrives_effect {c : Instr} {a code : Byte} {r : Option Request} {p : List Byte} {s t : State}
    (hc : Carries c a code r p) (h : event (frameArrives a code r p) s = .next t) : Effect c s t := by
  rcases event_cases (frameArrives a code r p) s with ⟨hlive, e⟩ | ⟨_, e⟩ <;> rw [e] at h <;> cases h
  · rcases frameArrives_cases a code r p s with ⟨_, _, e⟩ | ⟨htakes, _, e⟩ | ⟨htakes, _, _, e⟩ | ⟨htakes, _, _, e⟩ <;> rw [e]
    · exact .nothing c s
    · exact .uplink s hlive c _ hc.not_power (discardFrame_move htakes)
    · exact .request s hlive htakes c a code r p hc
    · exact .uplink s hlive c _ hc.not_power
        (.ofReceiver .other (UplinkState.takes.not_off htakes) (by simp))
  · exact .nothing c s

/-- An event's effects, given those it has in a live part. -/
theorem event_effect {c : Instr} {f : State → State} {s t : State} (h : event f s = .next t)
    (hf : s.live = true → Effect c s (f s)) : Effect c s t := by
  rcases event_cases f s with ⟨hlive, e⟩ | ⟨_, e⟩ <;> rw [e] at h <;> cases h
  · exact hf hlive
  · exact .nothing c s

theorem receiving_discard_effect {c : Instr} {s : State} (hlive : s.live = true)
    (hc : c ∉ [Instr.responseSent, .powerOn, .resetRelease, .resetAssert, .powerLoss]) :
    Effect c s (receiving discardFrame s) := by
  rcases frameDefect_cases s with ⟨htakes, e⟩ | ⟨_, _, e⟩ <;> rw [e]
  · exact .uplink s hlive c _ hc (discardFrame_move htakes)
  · exact .nothing c s

theorem receiverMoves_effect {c : Instr} {s : State} (hlive : s.live = true) {x y : Receiver}
    (hc : c ∉ [Instr.responseSent, .powerOn, .resetRelease, .resetAssert, .powerLoss])
    (hx : x ≠ .off ∧ x ≠ .responding ∧ x ≠ .space) (hy : y ≠ .off ∧ y ≠ .responding) :
    Effect c s (receiverMoves x y s) := by
  unfold receiverMoves
  split
  · rename_i h
    exact .uplink s hlive c _ hc (.ofReceiver y (by rw [h]; exact hx) hy)
  · exact .nothing c s

theorem breakSeen_effect {s : State} (hlive : s.live = true) (received : List Byte) :
    Effect (.breakCharacter received) s (breakSeen received s) := by
  have space : ∀ held, s.ui.receiver ≠ .off ∧ s.ui.receiver ≠ .responding →
      Effect (.breakCharacter received) s (enterSpace held s) :=
    fun held h => .uplink s hlive _ _ (by simp) (enterSpace_move held h)
  have taken : s.ui.takes → Effect (.breakCharacter received) s (receiving (enterSpace (some received)) s) := fun h => by
    rw [receiving_taken h]
    exact space (some received) ⟨h.not_off.1, h.not_off.2.1⟩
  unfold breakSeen
  cases h : s.ui.receiver with
  | waitIdle => exact space none (by simp [h])
  | other => exact space none (by simp [h])
  | ready => exact taken (.inl h)
  | receiving => exact taken (.inr h)
  | off => exact .nothing _ s
  | space => exact .nothing _ s
  | broken => exact .nothing _ s
  | responding => exact .nothing _ s

theorem spaceEnds_effect {s : State} (hlive : s.live = true) : Effect .spaceEndsEarly s (spaceEnds s) := by
  unfold spaceEnds
  split
  · rename_i h
    refine .uplink s hlive _ _ (by simp) ⟨by simp [h], by simp, ?_, ?_, .inr (.inl rfl), ?_⟩
    · dsimp only; split <;> simp [s.ui.countError_frame.2.1]
    · dsimp only; split <;> simp [s.ui.countError_frame.2.2.1]
    · dsimp only
      split
      · exact .inr s.ui.countError_frame.2.2.2.2
      · exact .inl rfl
  · exact .nothing _ s

theorem lineBreak_effect {s : State} (hlive : s.live = true) : Effect .lineBreak s (lineBreakTaken s) := by
  unfold lineBreakTaken
  split
  · exact .lineBreak s hlive ‹_›
  · exact .nothing _ s

/-- What a command that is executed can do. -/
theorem exec_effect {c : Instr} {s t : State} (h : exec c s = .next t) : Effect c s t := by
  have heard : ∀ {q : Request} {a : Byte} {p : List Byte}, exec (q.command a p) s = .next t → Effect (q.command a p) s t :=
    fun {q a p} h => frameArrives_effect (.own q a p) (by rw [← exec_command]; exact h)
  cases c with
  | powerOn =>
    obtain ⟨⟩ := h
    dsimp only
    split
    · exact .powerHeld s ‹_›
    · rename_i hreset; exact .powerStart s (Bool.eq_false_of_not_eq_true hreset)
  | resetAssert => cases h; exact .resetAssert s
  | powerLoss => cases h; exact .powerLoss s
  | resetRelease =>
    obtain ⟨⟩ := h
    split
    · dsimp only
      split
      · exact .resetStart s ‹_› ‹_›
      · rename_i hreset hpower; exact .resetHeld s hreset (Bool.eq_false_of_not_eq_true hpower)
    · exact .nothing _ s
  | startUpEnd =>
    refine event_effect h fun hlive => ?_
    split
    · exact .startUp s hlive ‹_›
    · exact .nothing _ s
  | restartTaken =>
    refine event_effect h fun hlive => ?_
    split
    · exact .restart s hlive ‹_›
    · exact .nothing _ s
  | saveWriteEnd result => exact event_effect h fun hlive => .written s hlive result
  | cycleTimerExpiry => exact event_effect h fun hlive => .timer s hlive
  | trunkFrameSend => exact event_effect h fun hlive => .frameStarts s hlive
  | trunkFrameEnd => exact event_effect h fun hlive => .frameSent s hlive
  | lineFrameEnds l shown => exact event_effect h fun hlive => .line s hlive _ _ (.ends l shown)
  | lineFrameGap l => exact event_effect h fun hlive => .line s hlive _ _ (.gap l)
  | replyTimeout a b => exact event_effect h fun hlive => .line s hlive _ _ (.timeout a b)
  | loadTimeout => exact event_effect h fun hlive => .loadTimeout s hlive
  | uplinkIdleSeen => exact event_effect h fun hlive => receiverMoves_effect hlive (by simp) (by simp) (by simp)
  | otherStationDone => exact event_effect h fun hlive => receiverMoves_effect hlive (by simp) (by simp) (by simp)
  | breakEnd => exact event_effect h fun hlive => receiverMoves_effect hlive (by simp) (by simp) (by simp)
  | uplinkFrameGap => exact event_effect h fun hlive => receiving_discard_effect hlive (by simp)
  | uplinkFrameDefect d => exact event_effect h fun hlive => receiving_discard_effect hlive (by simp)
  | uplinkCheckFail a code p k =>
    refine event_effect h fun hlive => ?_
    unfold frameWithCheck
    split
    · exact receiving_discard_effect hlive (by simp)
    · exact frameArrives_effect (.checked a code p k) (event_live hlive)
  | frameForOtherStation a code p => exact frameArrives_effect (.other a code p) h
  | unknownRequestCode a code p => exact frameArrives_effect (.unknown a code p) h
  | responseSend =>
    refine event_effect h fun hlive => ?_
    split
    · rename_i hc; exact .responseSend s hlive hc.1
    · exact .nothing _ s
  | responseSent =>
    refine event_effect h fun hlive => ?_
    split
    · rename_i hc; exact .responseSent s hlive hc.1
    · exact .nothing _ s
  | breakCharacter received => exact event_effect h fun hlive => breakSeen_effect hlive received
  | spaceEndsEarly => exact event_effect h fun hlive => spaceEnds_effect hlive
  | lineBreak => exact event_effect h fun hlive => lineBreak_effect hlive
  | status a p => exact heard (q := .status) h
  | counters a p => exact heard (q := .counters) h
  | ident a p => exact heard (q := .ident) h
  | mode a p => exact heard (q := .mode) h
  | save a p => exact heard (q := .save) h
  | restart a p => exact heard (q := .restart) h
  | lineReport a p => exact heard (q := .lineReport) h
  | skip a p => exact heard (q := .skip) h
  | readReadings a p => exact heard (q := .readReadings) h
  | forceSet a p => exact heard (q := .forceSet) h
  | forceClear a p => exact heard (q := .forceClear) h
  | forceList a p => exact heard (q := .forceList) h
  | readPairs a p => exact heard (q := .readPairs) h
  | summaryOpen a p => exact heard (q := .summaryOpen) h
  | summaryNext a p => exact heard (q := .summaryNext) h
  | summaryClose a p => exact heard (q := .summaryClose) h
  | takeAlerts a p => exact heard (q := .takeAlerts) h
  | loadOpen a p => exact heard (q := .loadOpen) h
  | loadRows a p => exact heard (q := .loadRows) h
  | loadClose a p => exact heard (q := .loadClose) h
  | loadAbandon a p => exact heard (q := .loadAbandon) h
  | commit a p => exact heard (q := .commit) h
  | readTable a p => exact heard (q := .readTable) h
  | relaySend a p => exact heard (q := .relaySend) h
  | relayCollect a p => exact heard (q := .relayCollect) h

end Sys2Proof.Machine

/-! SUPPORT. What the Poll Scheduler's shared operations can do: the walk, a cycle's opening and its completion, the stop and the
end of an exchange. Each is said once; the invariants are read off these lemmas. -/

namespace Sys2Proof.Machine

/-! ### The Table Store and Mode Control over a cycle -/

/-- TB keeps everything, or a pending commit's candidate set has been put into service (R143, R145). -/
def TakesPending (tb tb' : TableStore) : Prop :=
  tb' = tb ∨ ∃ c, tb.pendingCommit = some c ∧ tb' = { tb with active := c, staged := {}, pendingCommit := none }

theorem TakesPending.trans {tb tb' tb'' : TableStore} (h : TakesPending tb tb') (k : TakesPending tb' tb'') :
    TakesPending tb tb'' := by
  rcases h with rfl | ⟨c, hc, rfl⟩
  · exact k
  · rcases k with rfl | ⟨d, hd, _⟩
    · exact .inr ⟨c, hc, rfl⟩
    · cases hd

theorem TakesPending.load {tb tb' : TableStore} (h : TakesPending tb tb') : tb'.load = tb.load := by
  rcases h with rfl | ⟨c, _, rfl⟩ <;> rfl

/-- What the trunk's events and the cycle's openings keep: supply, uplink, store and queue; TB but for the taking of a pending
commit; and Mode Control but for the end of STOPPING. -/
structure CycleStep (s t : State) : Prop where
  only : CycleOnly s t
  tables : TakesPending s.tb t.tb
  mc : t.mc = s.mc ∨ (s.mc.mode = .stopping ∧ t.mc = { s.mc with mode := .idle })

theorem CycleStep.refl (s : State) : CycleStep s s := ⟨.refl s, .inl rfl, .inl rfl⟩

theorem CycleStep.trans {s t u : State} (h : CycleStep s t) (k : CycleStep t u) : CycleStep s u := by
  refine ⟨h.only.trans k.only, h.tables.trans k.tables, ?_⟩
  rcases h.mc with e | ⟨hm, e⟩
  · rw [← e]; exact k.mc
  · rcases k.mc with e' | ⟨hm', _⟩
    · exact .inr ⟨hm, e'.trans e⟩
    · rw [e] at hm'; cases hm'

/-- An operation that keeps TB and Mode Control. -/
theorem CycleStep.of_only {s t : State} (h : CycleOnly s t) (htb : t.tb = s.tb) (hmc : t.mc = s.mc) : CycleStep s t :=
  ⟨h, .inl htb, .inl hmc⟩

theorem CycleStep.setPs (s : State) (x : PollState) : CycleStep s (s.setPs x) := .of_only ⟨rfl, rfl, rfl, rfl⟩ rfl rfl

theorem CycleStep.setTi (s : State) (x : TrunkState) : CycleStep s (s.setTi x) := .of_only ⟨rfl, rfl, rfl, rfl⟩ rfl rfl

theorem ReadingsOnly.step {s t : State} (h : ReadingsOnly s t) : CycleStep s t :=
  .of_only h.commit.cycle h.keeps.2.2.2.1 h.keeps.2.2.2.2.2.2.1

/-- A boundary takes a pending commit. -/
theorem boundary_takes {work : State → State} (hw : ∀ s, ReadingsOnly s (work s)) (s : State) :
    TakesPending s.tb (boundary work s).tb := by
  obtain ⟨hnone, hsome⟩ := boundary_tb hw s
  cases h : s.tb.pendingCommit with
  | none => exact .inl (hnone h)
  | some c => exact .inr ⟨c, h, hsome c h⟩

/-- Of TI, a commit changes the Node State list at most (R18, R148). -/
theorem takeCommit_ti (c : Tables) (s : State) : ∃ nodes, (takeCommit c s).ti = { s.ti with nodes := nodes } := ⟨_, rfl⟩

/-- Of TI, a boundary changes the Node State list at most. -/
theorem boundary_ti {work : State → State} (hw : ∀ s, ReadingsOnly s (work s)) (s : State) :
    ∃ nodes, (boundary work s).ti = { s.ti with nodes := nodes } := by
  rcases boundary_cases work s with ⟨_, h⟩ | ⟨c, _, h | h⟩ <;> rw [h]
  · exact ⟨s.ti.nodes, (hw s).keeps.2.1⟩
  · exact ⟨_, (hw _).keeps.2.1⟩
  · obtain ⟨nodes, hti⟩ := takeCommit_ti c (work s.nextOrder)
    rw [(hw s.nextOrder).keeps.2.1] at hti
    exact ⟨nodes, hti⟩

theorem cycleStart_step (s : State) : CycleStep s (cycleStart s) := by
  refine ⟨cycleStart_cycle s, ?_, .inl ?_⟩
  · exact boundary_takes countDown_only (s.setPs { s.ps with cycle := s.ps.cycle + 1, phase := .walking, position := none })
  · exact (boundary_keeps (fun s => (countDown_only s).commit)
      (s.setPs { s.ps with cycle := s.ps.cycle + 1, phase := .walking, position := none })).2.2.2.2.1

/-- A cycle start leaves Mode Control and RU, and of TI all but the Node State list. -/
theorem cycleStart_keeps (s : State) :
    (cycleStart s).mc = s.mc ∧ (cycleStart s).ru = s.ru ∧ ∃ nodes, (cycleStart s).ti = { s.ti with nodes := nodes } :=
  have h := boundary_keeps (fun s => (countDown_only s).commit)
    (s.setPs { s.ps with cycle := s.ps.cycle + 1, phase := .walking, position := none })
  ⟨h.2.2.2.2.1, h.2.2.1,
    boundary_ti countDown_only (s.setPs { s.ps with cycle := s.ps.cycle + 1, phase := .walking, position := none })⟩

/-- The state in which the stop's boundary is reached (R32): PS halted, the mode IDLE, an open summary sequence broken. -/
def stopping (s : State) : State :=
  ((breakSummary s).setPs { s.ps with phase := .halted, timer := .stopped, position := none }).setMc
    { s.mc with mode := .idle }

theorem stop_eq (s : State) : stop s = boundary stopWork (stopping s) := by
  obtain ⟨_, _, hps, _, _, _, _, _, hmc, _⟩ := (breakSummary_only s).keeps
  unfold stop stopping
  simp only [hps, State.setPs_mc, hmc]

theorem stopping_keeps (s : State) :
    (stopping s).ti = s.ti ∧ (stopping s).si = s.si ∧ (stopping s).pe = s.pe ∧ (stopping s).tb = s.tb ∧
    (stopping s).ru = s.ru := by
  obtain ⟨_, hti, _, hsi, hpe, htb, hru, _⟩ := (breakSummary_only s).keeps
  exact ⟨hti, hsi, hpe, htb, hru⟩

theorem stop_takes (s : State) : TakesPending s.tb (stop s).tb := by
  rw [stop_eq, ← (stopping_keeps s).2.2.2.1]
  exact boundary_takes stopWork_only _

theorem stop_step {s : State} (h : s.mc.mode = .stopping) : CycleStep s (stop s) :=
  ⟨stop_cycle s, stop_takes s, .inr ⟨h, (stop_ps_mc s).2⟩⟩

/-- The stop leaves RU, and of TI all but the Node State list. -/
theorem stop_ru_ti (s : State) : (stop s).ru = s.ru ∧ ∃ nodes, (stop s).ti = { s.ti with nodes := nodes } := by
  obtain ⟨hti, _, _, _, hru⟩ := stopping_keeps s
  rw [stop_eq, ← hti, ← hru]
  exact ⟨(boundary_keeps (fun s => (stopWork_only s).commit) _).2.2.1, boundary_ti stopWork_only _⟩

/-! ### The walk -/

/-- A visit leaves the nodes that have a record (R34). -/
theorem visitRow_keys (position : Nat) (row : PollRow) (s : State) :
    (visitRow position row s).1.ti.nodes.keys = s.ti.nodes.keys := by
  unfold visitRow
  cases row with
  | poll node replyTimeout acceptMarked =>
    simp only [visitPoll]
    split
    · simp
    · split <;> rfl
  | relay =>
    simp only [visitRelay]
    split
    · rfl
    · split <;> rfl

/-- The rows of a walk have been passed over (R26): the walk position has moved, and skip counts have been used. -/
inductive PassedOver (s : State) : State → Prop
  | mk (position : Option Nat) (nodes : Keyed NodeRecord) (hkeys : nodes.keys = s.ti.nodes.keys) :
      PassedOver s ((s.setPs { s.ps with position := position }).setTi { s.ti with nodes := nodes })

/-- A row of a walk has its exchange due (R26): a poll's, or that of the head of the Relay Queue, which goes in flight. -/
inductive Sent (rows : Keyed PollRow) (s : State) : State → Prop
  | poll (position : Nat) (row : PollRow) (nodes : Keyed NodeRecord) (x : Exchange) (hrow : (position, row) ∈ rows)
      (hkeys : nodes.keys = s.ti.nodes.keys) (hphase : x.phase = .due) (hkind : x.kind = .poll) :
      Sent rows s ((s.setPs { s.ps with position := some position }).setTi { s.ti with nodes := nodes, exchange := some x })
  | relay (position : Nat) (row : PollRow) (nodes : Keyed NodeRecord) (x : Exchange) (q : RelayRequest)
      (rest : List RelayRequest) (hrow : (position, row) ∈ rows) (hkeys : nodes.keys = s.ti.nodes.keys)
      (hphase : x.phase = .due) (hkind : x.kind = .relay) (hqueue : s.ru.queue = q :: rest)
      (hheld : s.ru.held < Config.relayResults) :
      Sent rows s (((s.setPs { s.ps with position := some position }).setRu
        { s.ru with queue := rest, inFlight := some q }).setTi { s.ti with nodes := nodes, exchange := some x })

theorem PassedOver.trans {s t u : State} (h : PassedOver s t) (k : PassedOver t u) : PassedOver s u := by
  cases h with
  | mk p nodes hkeys => cases k with | mk p' nodes' hkeys' => exact .mk p' nodes' (hkeys'.trans hkeys)

theorem PassedOver.sent {rows : Keyed PollRow} {s t u : State} (h : PassedOver s t) (k : Sent rows t u) : Sent rows s u := by
  cases h with
  | mk p nodes hkeys =>
    cases k with
    | poll p' row nodes' x hrow hkeys' hphase hkind =>
      exact .poll p' row nodes' x hrow (hkeys'.trans hkeys) hphase hkind
    | relay p' row nodes' x q rest hrow hkeys' hphase hkind hqueue hheld =>
      exact .relay p' row nodes' x q rest hrow (hkeys'.trans hkeys) hphase hkind hqueue hheld

theorem Sent.mono {rows rows' : Keyed PollRow} {s t : State} (h : Sent rows s t) (hrows : ∀ e ∈ rows, e ∈ rows') :
    Sent rows' s t := by
  cases h with
  | poll p row nodes x hrow hkeys hphase hkind => exact .poll p row nodes x (hrows _ hrow) hkeys hphase hkind
  | relay p row nodes x q rest hrow hkeys hphase hkind hqueue hheld =>
    exact .relay p row nodes x q rest (hrows _ hrow) hkeys hphase hkind hqueue hheld

/-- What a visit can do, as a walk over its one row. -/
theorem visitRow_walked (position : Nat) (row : PollRow) (s : State) :
    (∃ t, visitRow position row s = (t, false) ∧ PassedOver s t) ∨
    (∃ t, visitRow position row s = (t, true) ∧ Sent [(position, row)] s t) := by
  have hkeys := visitRow_keys position row s
  rcases visitRow_cases position row s with ⟨nodes, h⟩ | ⟨x, h, hphase, hkind⟩ | ⟨x, q, rest, h, hphase, hkind, hq, hheld⟩ <;>
    rw [h] at hkeys
  · exact .inl ⟨_, h, .mk _ nodes hkeys⟩
  · exact .inr ⟨_, h, .poll position row s.ti.nodes x (by simp) rfl hphase hkind⟩
  · exact .inr ⟨_, h, .relay position row s.ti.nodes x q rest (by simp) rfl hphase hkind hq hheld⟩

/-- What a walk can do (R26): every row is passed over, or one has its exchange due and the walk waits there. -/
theorem walkRows_walked (rows : Keyed PollRow) (s : State) :
    (∃ t, walkRows rows s = (t, false) ∧ PassedOver s t) ∨ (∃ t, walkRows rows s = (t, true) ∧ Sent rows s t) := by
  induction rows generalizing s with
  | nil => exact .inl ⟨s, rfl, .mk s.ps.position s.ti.nodes rfl⟩
  | cons e rows ih =>
    obtain ⟨position, row⟩ := e
    rcases visitRow_walked position row s with ⟨t, h, hpass⟩ | ⟨t, h, hsent⟩
    · have hw : walkRows ((position, row) :: rows) s = walkRows rows t := by rw [walkRows, h]
      rw [hw]
      rcases ih t with ⟨u, hu, k⟩ | ⟨u, hu, k⟩
      · exact .inl ⟨u, hu, hpass.trans k⟩
      · exact .inr ⟨u, hu, (hpass.sent k).mono fun _ => List.mem_cons_of_mem _⟩
    · exact .inr ⟨t, by rw [walkRows, h], hsent.mono (by simp)⟩

/-- The rows ahead are rows of the POLL table. -/
theorem rowsAhead_subset (s : State) : ∀ e ∈ s.rowsAhead, e ∈ s.tb.active.poll := by
  unfold State.rowsAhead
  split
  · exact fun e h => h
  · exact fun e h => List.mem_of_mem_filter h

/-! ### The end of a walk -/

/-- A cycle has completed but for what PS does next (R30, R118 to R120): the walk position is gone, skip counts have been used,
and the Zone Monitor has published, deferred or broken. -/
inductive Completed (s : State) : State → Prop
  | mk (nodes : Keyed NodeRecord) (hkeys : nodes.keys = s.ti.nodes.keys) :
      Completed s (((s.setPs { s.ps with position := none }).setTi { s.ti with nodes := nodes }).setZm (zoneCompletion s).zm)

/-- The Zone Monitor's part in a completion changes the bank and the summary sequence alone. -/
theorem zoneCompletion_frame (s : State) :
    (zoneCompletion s).zm.zones = s.zm.zones ∧ (zoneCompletion s).zm.alerts = s.zm.alerts := by
  unfold zoneCompletion
  split
  · split <;> exact ⟨rfl, rfl⟩
  · exact ⟨rfl, rfl⟩

/-- The Zone Monitor's part in a completion depends on ZM, the mode and the cycle number. -/
theorem zoneCompletion_congr {s t : State} (hzm : t.zm = s.zm) (hmode : t.mc.mode = s.mc.mode)
    (hcycle : t.ps.cycle = s.ps.cycle) : zoneCompletion t = t.setZm (zoneCompletion s).zm := by
  unfold zoneCompletion publish
  rw [hzm, hmode]
  split
  · split
    · simp [hcycle]
    · simp
  · simp [hcycle]

theorem PassedOver.completed {s t : State} (h : PassedOver s t) :
    Completed s (zoneCompletion (t.setPs { t.ps with position := none })) := by
  have hzm : t.zm = s.zm ∧ t.mc.mode = s.mc.mode ∧ t.ps.cycle = s.ps.cycle := by cases h; exact ⟨rfl, rfl, rfl⟩
  have e := zoneCompletion_congr (s := s) (t := t.setPs { t.ps with position := none }) hzm.1 hzm.2.1 hzm.2.2
  rw [e]
  cases h with | mk p nodes hkeys => exact .mk nodes hkeys

/-- What a walk from the walk position on comes to (R26, R30): an exchange is due; or the cycle completes, and PS stops, overruns
into the next cycle, or waits. -/
inductive WalkEnd (overrun : State → State) (s : State) : State → Prop
  | sent (t : State) (h : Sent s.tb.active.poll s t) : WalkEnd overrun s t
  | stopped (u : State) (hu : Completed s u) (hmode : s.mc.mode = .stopping) : WalkEnd overrun s (stop u)
  | overran (u : State) (hu : Completed s u) (hmode : s.mc.mode ≠ .stopping) (htimer : s.ps.timer = .expired) :
      WalkEnd overrun s (overrun (u.setPs { u.ps with overruns := satSucc 255 u.ps.overruns }))
  | waits (u : State) (hu : Completed s u) (hmode : s.mc.mode ≠ .stopping) (htimer : s.ps.timer ≠ .expired) :
      WalkEnd overrun s (u.setPs { u.ps with phase := .waiting })

theorem Completed.mc_timer {s u : State} (h : Completed s u) : u.mc = s.mc ∧ u.ps.timer = s.ps.timer := by
  cases h; exact ⟨rfl, rfl⟩

theorem runWalk_end (overrun : State → State) (s : State) : WalkEnd overrun s (runWalk overrun s) := by
  unfold runWalk
  rcases walkRows_walked s.rowsAhead s with ⟨t, h, hpass⟩ | ⟨t, h, hsent⟩ <;> rw [h]
  · have hu := hpass.completed
    obtain ⟨hmc, htimer⟩ := hu.mc_timer
    dsimp only [cycleCompletion]
    revert hu hmc htimer
    generalize zoneCompletion (t.setPs { t.ps with position := none }) = u
    intro hu hmc htimer
    unfold afterCompletion
    rw [hmc, htimer]
    split
    · exact .stopped u hu ‹_›
    · split
      · exact .overran u hu ‹_› ‹_›
      · exact .waits u hu ‹_› (by simp [*])
      · exact .waits u hu ‹_› (by simp [*])
  · exact .sent t (hsent.mono (rowsAhead_subset s))

/-- A cycle's opening never finds its own timer expired, so its walk does not overrun (R25, R30). -/
theorem openCycle_end (overrun : State → State) (s : State) : WalkEnd overrun (cycleStart s) (openCycle s) := by
  have htimer : (cycleStart s).ps.timer ≠ .expired := by rw [cycleStart_ps]; simp
  have h : WalkEnd id (cycleStart s) (openCycle s) := runWalk_end id (cycleStart s)
  revert h
  generalize openCycle s = t
  intro h
  cases h with
  | sent _ h => exact .sent _ h
  | stopped u hu hmode => exact .stopped u hu hmode
  | overran u hu hmode h => exact absurd h htimer
  | waits u hu hmode h => exact .waits u hu hmode h

theorem Sent.step {rows : Keyed PollRow} {s t : State} (h : Sent rows s t) : CycleStep s t := by
  cases h <;> exact .of_only ⟨rfl, rfl, rfl, rfl⟩ rfl rfl

theorem Completed.step {s t : State} (h : Completed s t) : CycleStep s t := by
  cases h; exact .of_only ⟨rfl, rfl, rfl, rfl⟩ rfl rfl

theorem WalkEnd.step {overrun : State → State} (ho : ∀ s, CycleStep s (overrun s)) {s t : State} (h : WalkEnd overrun s t) :
    CycleStep s t := by
  cases h with
  | sent _ h => exact h.step
  | stopped u hu hmode => exact hu.step.trans (stop_step (by rw [hu.mc_timer.1]; exact hmode))
  | overran u hu hmode htimer =>
    exact hu.step.trans ((CycleStep.setPs u _).trans (ho _))
  | waits u hu hmode htimer => exact hu.step.trans (.setPs u _)

theorem openCycle_step (s : State) : CycleStep s (openCycle s) :=
  (cycleStart_step s).trans ((openCycle_end id s).step CycleStep.refl)

theorem continueWalk_step (s : State) : CycleStep s (continueWalk s) := (runWalk_end openCycle s).step openCycle_step

/-- A law that every part of a cycle keeps: its start, a walk that waits for an exchange, its completion and the stop. -/
structure CycleLaw (P : State → Prop) : Prop where
  start : ∀ {s}, P s → P (cycleStart s)
  sent : ∀ {rows s t}, Sent rows s t → P s → P t
  completed : ∀ {s t}, Completed s t → P s → P t
  stop : ∀ {s}, P s → P (stop s)
  ps : ∀ {s} (overruns phase timer), P s → P (s.setPs { s.ps with overruns := overruns, phase := phase, timer := timer })

theorem CycleLaw.walkEnd {P : State → Prop} (law : CycleLaw P) {overrun : State → State} (ho : ∀ s, P s → P (overrun s))
    {s t : State} (h : WalkEnd overrun s t) (hs : P s) : P t := by
  cases h with
  | sent _ h => exact law.sent h hs
  | stopped u hu _ => exact law.stop (law.completed hu hs)
  | overran u hu _ _ => exact ho _ (law.ps _ u.ps.phase u.ps.timer (law.completed hu hs))
  | waits u hu _ _ => exact law.ps u.ps.overruns _ u.ps.timer (law.completed hu hs)

theorem CycleLaw.openCycle {P : State → Prop} (law : CycleLaw P) {s : State} (hs : P s) : P (openCycle s) :=
  law.walkEnd (fun _ h => h) (openCycle_end id s) (law.start hs)

theorem CycleLaw.continueWalk {P : State → Prop} (law : CycleLaw P) {s : State} (hs : P s) : P (continueWalk s) :=
  law.walkEnd (fun _ h => law.openCycle h) (runWalk_end Machine.openCycle s) hs

/-! ### The trunk's events -/

/-- What the completion of an exchange does to TI, RU and the readings (R8): the exchange is over; a POLL's record is updated and
its notice taken, and a RELAY's relay in flight becomes a result. -/
theorem completeExchange_cases (x : Exchange) (a b : Conclusion) (s : State) :
    (x.kind = .poll ∧ ∃ n nodes, nodes.keys = s.ti.nodes.keys ∧
      completeExchange x a b s = intakeEvent n (s.setTi { s.ti with exchange := none, nodes := nodes })) ∨
    (x.kind = .relay ∧ s.ru.inFlight = none ∧ completeExchange x a b s = s.setTi { s.ti with exchange := none }) ∨
    (∃ q r, x.kind = .relay ∧ s.ru.inFlight = some q ∧ r.tag = q.tag ∧ completeExchange x a b s =
      (s.setTi { s.ti with exchange := none }).setRu { s.ru with inFlight := none, results := s.ru.results ++ [r] }) := by
  unfold completeExchange
  cases hkind : x.kind with
  | poll => exact .inl ⟨rfl, _, _, Keyed.keys_modify _ _ _, rfl⟩
  | relay =>
    unfold completeRelay
    cases hq : s.ru.inFlight with
    | none => exact .inr (.inl ⟨rfl, rfl, by simp [hq]⟩)
    | some q =>
      refine .inr (.inr ⟨q, relayResult s.ps.cycle q (s.node x.node).activeLine a b, rfl, rfl, rfl, ?_⟩)
      simp [hq]; rfl

theorem completeExchange_step (x : Exchange) (a b : Conclusion) (s : State) : CycleStep s (completeExchange x a b s) := by
  rcases completeExchange_cases x a b s with ⟨_, n, nodes, _, h⟩ | ⟨_, _, h⟩ | ⟨q, r, _, _, _, h⟩ <;> rw [h]
  · exact (CycleStep.setTi s _).trans (intakeEvent_only n _).step
  · exact .of_only ⟨rfl, rfl, rfl, rfl⟩ rfl rfl
  · exact .of_only ⟨rfl, rfl, rfl, rfl⟩ rfl rfl

theorem Exchange.setLine_frame (x : Exchange) (l : Line) (st : LineState) :
    (x.setLine l st).kind = x.kind ∧ (x.setLine l st).phase = x.phase := by
  cases l <;> exact ⟨rfl, rfl⟩

/-- The trunk's events on the lines leave the exchange's kind and stage. -/
theorem LineEvent.frame {c : Instr} {f : Exchange → Exchange} (h : LineEvent c f) (x : Exchange) :
    (f x).kind = x.kind ∧ (f x).phase = x.phase := by
  cases h with
  | ends l shown => exact x.setLine_frame l _
  | gap l => exact x.setLine_frame l _
  | timeout a b => unfold Exchange.timeout; split <;> exact ⟨rfl, rfl⟩

/-- What a trunk event on the lines can do (R8): nothing without an exchange whose reply is awaited; a change of the exchange
alone; or the exchange's completion, after which the walk goes on. -/
theorem whileListening_cases {c : Instr} {f : Exchange → Exchange} (hc : LineEvent c f) (s : State) :
    whileListening f s = s ∨
    ∃ x y, s.ti.exchange = some x ∧ x.phase = .listening ∧ y.kind = x.kind ∧ y.phase = .listening ∧
      (whileListening f s = s.setTi { s.ti with exchange := some y } ∨
        ∃ a b, whileListening f s = continueWalk (completeExchange y a b s)) := by
  unfold whileListening
  split
  · exact .inl rfl
  · rename_i x hx
    split
    · rename_i hphase
      obtain ⟨hkind, hphase'⟩ := hc.frame x
      refine .inr ⟨x, f x, hx, hphase, hkind, hphase'.trans hphase, ?_⟩
      unfold settleExchange
      split
      · exact .inr ⟨_, _, rfl⟩
      · exact .inl rfl
    · exact .inl rfl
    · exact .inl rfl

theorem whileListening_step {c : Instr} {f : Exchange → Exchange} (hc : LineEvent c f) (s : State) :
    CycleStep s (whileListening f s) := by
  rcases whileListening_cases hc s with h | ⟨x, y, _, _, _, _, h | ⟨a, b, h⟩⟩ <;> rw [h]
  · exact .refl s
  · exact .of_only ⟨rfl, rfl, rfl, rfl⟩ rfl rfl
  · exact (completeExchange_step y a b s).trans (continueWalk_step _)

/-- What the expiry of the cycle timer can do (R24). -/
theorem timerExpires_cases (s : State) :
    timerExpires s = s ∨
    (∃ period, s.ps.timer = .running period ∧ s.ps.phase = .waiting ∧ timerExpires s = openCycle s) ∨
    (∃ period, s.ps.timer = .running period ∧ s.ps.phase = .walking ∧
      timerExpires s = s.setPs { s.ps with timer := .expired }) := by
  unfold timerExpires
  split
  · exact .inl rfl
  · exact .inl rfl
  · rename_i period htimer
    split
    · exact .inr (.inl ⟨period, htimer, ‹_›, rfl⟩)
    · exact .inr (.inr ⟨period, htimer, ‹_›, rfl⟩)
    · exact .inl rfl

theorem timerExpires_step (s : State) : CycleStep s (timerExpires s) := by
  rcases timerExpires_cases s with h | ⟨_, _, _, h⟩ | ⟨_, _, _, h⟩ <;> rw [h]
  · exact .refl s
  · exact openCycle_step s
  · exact .of_only ⟨rfl, rfl, rfl, rfl⟩ rfl rfl

/-- What the start of a frame can do (R1). -/
theorem frameStarts_cases (s : State) :
    frameStarts s = s ∨ ∃ x, s.ti.exchange = some x ∧ x.phase = .due ∧
      frameStarts s = s.setTi { s.ti with dirA := true, dirB := true, exchange := some { x with phase := .sending } } := by
  unfold frameStarts
  split
  · exact .inl rfl
  · split
    · exact .inr ⟨_, ‹_›, ‹_›, rfl⟩
    · exact .inl rfl
    · exact .inl rfl

/-- What the end of a frame can do (R1, R6). -/
theorem frameSent_cases (s : State) :
    frameSent s = s ∨ ∃ x, s.ti.exchange = some x ∧ x.phase = .sending ∧
      frameSent s = s.setTi { s.ti with dirA := false, dirB := false, exchange := some { x with phase := .listening } } := by
  unfold frameSent
  split
  · exact .inl rfl
  · split
    · exact .inr ⟨_, ‹_›, ‹_›, rfl⟩
    · exact .inl rfl
    · exact .inl rfl

/-- What follows a request at once (R25, R33): a cycle start or the stop after a MODE, and nothing after any other. -/
theorem follow_cases (r : Option Request) (s : State) :
    (Request.follow r s = s ∧ (r = some .mode →
      ¬(s.mc.mode = .survey ∧ s.ps.phase = .halted) ∧ ¬(s.mc.mode = .stopping ∧ s.ps.phase = .waiting))) ∨
    (r = some .mode ∧ s.mc.mode = .survey ∧ s.ps.phase = .halted ∧ Request.follow r s = openCycle s) ∨
    (r = some .mode ∧ s.mc.mode = .stopping ∧ s.ps.phase = .waiting ∧ Request.follow r s = stop s) := by
  unfold Request.follow
  split
  · rename_i hr
    unfold afterMode
    split
    · rename_i h; exact .inr (.inl ⟨hr, h.1, h.2, rfl⟩)
    · split
      · rename_i h; exact .inr (.inr ⟨hr, h.1, h.2, rfl⟩)
      · exact .inl ⟨rfl, fun _ => ⟨‹_›, ‹_›⟩⟩
  · rename_i hr; exact .inl ⟨rfl, fun h => absurd h hr⟩

theorem follow_step (r : Option Request) (s : State) : CycleStep s (Request.follow r s) := by
  rcases follow_cases r s with ⟨h, _⟩ | ⟨_, _, _, h⟩ | ⟨_, hmode, _, h⟩ <;> rw [h]
  · exact .refl s
  · exact openCycle_step s
  · exact stop_step hmode

theorem CycleLaw.timerExpires {P : State → Prop} (law : CycleLaw P) {s : State} (hs : P s) : P (timerExpires s) := by
  rcases timerExpires_cases s with h | ⟨_, _, _, h⟩ | ⟨_, _, _, h⟩ <;> rw [h]
  · exact hs
  · exact law.openCycle hs
  · exact law.ps s.ps.overruns s.ps.phase _ hs

theorem CycleLaw.follow {P : State → Prop} (law : CycleLaw P) {s : State} (r : Option Request) (hs : P s) :
    P (Request.follow r s) := by
  rcases follow_cases r s with ⟨h, _⟩ | ⟨_, _, _, h⟩ | ⟨_, _, _, h⟩ <;> rw [h]
  · exact hs
  · exact law.openCycle hs
  · exact law.stop hs

/-- A law that a cycle keeps and that the trunk's events on an exchange keep, its completion among them. -/
theorem CycleLaw.whileListening {P : State → Prop} (law : CycleLaw P)
    (hexchange : ∀ {s} x, P s → P (s.setTi { s.ti with exchange := some x }))
    (hcomplete : ∀ {s} x a b, P s → P (completeExchange x a b s)) {c : Instr} {f : Exchange → Exchange}
    (hc : LineEvent c f) {s : State} (hs : P s) : P (whileListening f s) := by
  rcases whileListening_cases hc s with h | ⟨x, y, _, _, _, _, h | ⟨a, b, h⟩⟩ <;> rw [h]
  · exact hs
  · exact hexchange y hs
  · exact law.continueWalk (hcomplete y a b hs)

/-- What the end of START can do (R188): the blocks are built and the receivers enabled, and the part is in IDLE, or in SURVEY with
its first cycle open. -/
theorem endStart_cases (s : State) :
    let built := ((buildBlocks s).setTi { (buildBlocks s).ti with receiversOn := true }).setUi
      { s.ui with receiver := .waitIdle }
    endStart s = built.setMc { s.mc with mode := .idle } ∨
    endStart s = openCycle (built.setMc { s.mc with mode := .survey }) := by
  unfold endStart
  dsimp only
  split
  · exact .inr rfl
  · exact .inl rfl

end Sys2Proof.Machine

/-! SUPPORT. The phases of the Poll Scheduler (R22), the trunk direction controls (R1) and the Relay Unit (R151): what every command
keeps of them, and the statements O7, O8 and O17. -/

namespace Sys2Proof.Machine

/-! ### What an accepted request leaves -/

theorem takeBatch_only (position : Nat) (s : State) : ZonesOnly s (takeBatch position s) := by
  unfold takeBatch
  split
  · exact closeSummary_only s
  · rfl

/-- The mode that an accepted MODE leaves (R180): the one there was, SURVEY from IDLE or STOPPING, or STOPPING from SURVEY. -/
theorem modeAfter_cases {b : Byte} {target m m' : Mode} {rows : Keyed PollRow} (htarget : modeTarget b = some target)
    (h : modeAfter target rows m = some m') :
    m' = m ∨ (b = 2 ∧ m = .idle ∧ m' = .survey ∧ rows ≠ []) ∨ (b = 2 ∧ m = .stopping ∧ m' = .survey) ∨
    (b = 1 ∧ m = .survey ∧ m' = .stopping) := by
  have code : ∀ n : Nat, n < 256 → b.toNat = n → b = BitVec.ofNat 8 n := fun n hn hb => by
    apply BitVec.eq_of_toNat_eq; simp [hb]; omega
  unfold modeTarget at htarget
  split at htarget
  · rename_i hb
    cases htarget
    have hb := code 2 (by omega) hb
    cases m with
    | idle =>
      change (if rows = [] then none else some .survey) = some m' at h
      split at h
      · cases h
      · cases h; exact .inr (.inl ⟨hb, rfl, rfl, ‹_›⟩)
    | stopping => cases h; exact .inr (.inr (.inl ⟨hb, rfl, rfl⟩))
    | start => cases h; exact .inl rfl
    | survey => cases h; exact .inl rfl
  · split at htarget
    · rename_i hb
      cases htarget
      cases m with
      | survey => cases h; exact .inr (.inr (.inr ⟨code 1 (by omega) hb, rfl, rfl⟩))
      | _ => cases h; exact .inl rfl
    · cases htarget

/-- A request leaves the phases, the exchange with the direction controls, and the relay in flight; and all but MODE leave the
mode. -/
theorem Served.control {r : Option Request} {s t : State} (h : Served r s t) :
    t.supply = s.supply ∧ t.ps.phase = s.ps.phase ∧ t.ps.timer = s.ps.timer ∧ t.ps.position = s.ps.position ∧
    t.ps.cycle = s.ps.cycle ∧ t.ti.exchange = s.ti.exchange ∧ t.ti.dirA = s.ti.dirA ∧ t.ti.dirB = s.ti.dirB ∧
    t.ru.inFlight = s.ru.inFlight ∧ (r ≠ some .mode → t.mc.mode = s.mc.mode) := by
  cases h with
  | summaryOpen _ =>
    obtain ⟨e1, e2, e3, _, _, _, e7, _, e9, _⟩ := (takeBatch_only 0 (s.setZm _)).keeps
    rw [e1, e2, e3, e7, e9]; exact ⟨rfl, rfl, rfl, rfl, rfl, rfl, rfl, rfl, rfl, fun _ => rfl⟩
  | summaryNext _ =>
    obtain ⟨e1, e2, e3, _, _, _, e7, _, e9, _⟩ := (takeBatch_only s.zm.summary.nextRecord s).keeps
    rw [e1, e2, e3, e7, e9]; exact ⟨rfl, rfl, rfl, rfl, rfl, rfl, rfl, rfl, rfl, fun _ => rfl⟩
  | summaryClose _ =>
    obtain ⟨e1, e2, e3, _, _, _, e7, _, e9, _⟩ := (closeSummary_only s).keeps
    rw [e1, e2, e3, e7, e9]; exact ⟨rfl, rfl, rfl, rfl, rfl, rfl, rfl, rfl, rfl, fun _ => rfl⟩
  | mode => exact ⟨rfl, rfl, rfl, rfl, rfl, rfl, rfl, rfl, rfl, fun h => absurd rfl h⟩
  | _ => exact ⟨rfl, rfl, rfl, rfl, rfl, rfl, rfl, rfl, rfl, fun _ => rfl⟩

/-- What a MODE that is handled leaves (R180). -/
theorem Served.mode_cases {s t : State} (h : Served (some .mode) s t) :
    t.mc.mode = s.mc.mode ∨ (s.mc.mode = .idle ∧ t.mc.mode = .survey) ∨ (s.mc.mode = .stopping ∧ t.mc.mode = .survey) ∨
    (s.mc.mode = .survey ∧ t.mc.mode = .stopping) := by
  cases h with
  | mode _ b target m htarget hafter =>
    rcases modeAfter_cases htarget hafter with h | ⟨_, h, h', _⟩ | ⟨_, h, h'⟩ | ⟨_, h, h'⟩
    · exact .inl h
    · exact .inr (.inl ⟨h, h'⟩)
    · exact .inr (.inr (.inl ⟨h, h'⟩))
    · exact .inr (.inr (.inr ⟨h, h'⟩))
  | nothing => exact .inl rfl
  | brokenTold => exact .inl rfl

/-! ### The phases (R22) -/

/-- PS walks with no exchange in progress: the state between two visits. -/
structure Walks (s : State) : Prop where
  phase : s.ps.phase = .walking
  timer : s.ps.timer ≠ .stopped
  mode : s.mc.mode = .survey ∨ s.mc.mode = .stopping
  exchange : s.ti.exchange = none
  inFlight : s.ru.inFlight = none

/-- The stop leaves the phases sound when no exchange is in progress (R32). -/
theorem phaseSound_stop {s : State} (hx : s.ti.exchange = none) (hq : s.ru.inFlight = none) : PhaseSound (stop s) := by
  obtain ⟨hps, hmc⟩ := stop_ps_mc s
  obtain ⟨hru, nodes, hti⟩ := stop_ru_ti s
  simp [PhaseSound, State.relayExchange, hps, hmc, hru, hti, hx, hq]

/-- A walk ends with the phases sound, when an overrun ends so. -/
theorem Walks.phaseSound {overrun : State → State} {s t : State}
    (ho : s.ps.timer = .expired → ∀ u, Walks u → PhaseSound (overrun u)) (h : Walks s) (k : WalkEnd overrun s t) :
    PhaseSound t := by
  obtain ⟨hphase, htimer, hmode, hx, hq⟩ := h
  cases k with
  | sent _ k =>
    cases k with
    | poll p row nodes x hrow hkeys hdue hkind =>
      rcases hmode with hmode | hmode <;> simp [PhaseSound, State.relayExchange, hphase, htimer, hmode, hq, hkind]
    | relay p row nodes x q rest hrow hkeys hdue hkind hqueue hheld =>
      rcases hmode with hmode | hmode <;> simp [PhaseSound, State.relayExchange, hphase, htimer, hmode, hkind]
  | stopped u hu _ => cases hu; exact phaseSound_stop hx hq
  | overran u hu hstop hexpired => cases hu; exact ho hexpired _ ⟨hphase, htimer, hmode, hx, hq⟩
  | waits u hu hstop hexpired =>
    cases hu
    have hmode : s.mc.mode = .survey := hmode.resolve_right hstop
    simp [PhaseSound, State.relayExchange, htimer, hexpired, hmode, hx, hq]

/-- A cycle's opening leaves the phases sound when no exchange is in progress. -/
theorem phaseSound_openCycle {s : State} (hmode : s.mc.mode = .survey ∨ s.mc.mode = .stopping) (hx : s.ti.exchange = none)
    (hq : s.ru.inFlight = none) : PhaseSound (openCycle s) := by
  obtain ⟨hmc, hru, nodes, hti⟩ := cycleStart_keeps s
  have hps := cycleStart_ps s
  have hw : Walks (cycleStart s) :=
    ⟨by rw [hps], by rw [hps]; simp, by rw [hmc]; exact hmode, by rw [hti]; exact hx, by rw [hru]; exact hq⟩
  exact hw.phaseSound (fun h => by rw [hps] at h; cases h) (openCycle_end id s)

theorem Walks.continueWalk {s : State} (h : Walks s) : PhaseSound (continueWalk s) :=
  h.phaseSound (fun _ _ hu => phaseSound_openCycle hu.mode hu.exchange hu.inFlight) (runWalk_end openCycle s)

/-- The laws of R22 are of these fields alone. -/
theorem PhaseSound.congr {s t : State} (h : PhaseSound s) (hphase : t.ps.phase = s.ps.phase) (htimer : t.ps.timer = s.ps.timer)
    (hposition : t.ps.position = s.ps.position) (hmode : t.mc.mode = s.mc.mode) (hx : t.ti.exchange = s.ti.exchange)
    (hq : t.ru.inFlight = s.ru.inFlight) : PhaseSound t := by
  unfold PhaseSound State.relayExchange at *
  rw [hphase, htimer, hposition, hmode, hx, hq]
  exact h

/-- Turning between SURVEY and STOPPING keeps the phases sound, but that STOPPING is entered only while WALKING (R33). -/
theorem PhaseSound.turn {s t : State} (h : PhaseSound s) (hphase : t.ps.phase = s.ps.phase) (htimer : t.ps.timer = s.ps.timer)
    (hposition : t.ps.position = s.ps.position) (hx : t.ti.exchange = s.ti.exchange)
    (hq : t.ru.inFlight = s.ru.inFlight) (hmode : s.mc.mode = .survey ∨ s.mc.mode = .stopping)
    (hmode' : t.mc.mode = .survey ∨ t.mc.mode = .stopping ∧ s.ps.phase = .walking) : PhaseSound t := by
  obtain ⟨hhalted, hwalk, hposition', hstopped, hwait, htimer', hstop, hrelay⟩ := h
  have hnot : s.ps.phase ≠ .halted := fun e => by rcases hmode with m | m <;> simp [m] at hhalted <;> contradiction
  unfold PhaseSound State.relayExchange at *
  rw [hphase, htimer, hposition, hx, hq]
  refine ⟨iff_of_false hnot ?_, hwalk, hposition', hstopped, hwait, htimer', ?_, hrelay⟩ <;>
    rcases hmode' with m | ⟨m, hw⟩ <;> simp [m]
  exact hw

/-- Replacing the exchange by one of its kind keeps the phases sound. -/
theorem PhaseSound.renew {s t : State} {x y : Exchange} (h : PhaseSound s) (hx : s.ti.exchange = some x)
    (hy : t.ti.exchange = some y) (hkind : y.kind = x.kind) (hps : t.ps = s.ps) (hmc : t.mc = s.mc) (hru : t.ru = s.ru) :
    PhaseSound t := by
  unfold PhaseSound State.relayExchange at *
  simp only [hx] at h
  simp only [hy, hkind, hps, hmc, hru]
  exact h

/-- While an exchange is in progress PS walks, in SURVEY or STOPPING, with the timer not stopped (R22). -/
theorem PhaseSound.walking {s : State} {x : Exchange} (h : PhaseSound s) (hx : s.ti.exchange = some x) :
    s.ps.phase = .walking ∧ s.ps.timer ≠ .stopped ∧ (s.mc.mode = .survey ∨ s.mc.mode = .stopping) := by
  obtain ⟨hhalted, hexchange, _, _, _, htimer, _⟩ := h
  have hw : s.ps.phase = .walking := hexchange.2 (by simp [hx])
  refine ⟨hw, htimer hw, ?_⟩
  cases hm : s.mc.mode with
  | survey => exact .inl rfl
  | stopping => exact .inr rfl
  | start => exact absurd (hhalted.2 (.inl hm)) (by simp [hw])
  | idle => exact absurd (hhalted.2 (.inr hm)) (by simp [hw])

/-- Out of WALKING there is no exchange in progress and no relay in flight (R22, R151). -/
theorem PhaseSound.resting {s : State} (h : PhaseSound s) (hphase : s.ps.phase ≠ .walking) :
    s.ti.exchange = none ∧ s.ru.inFlight = none := by
  obtain ⟨_, hexchange, _, _, _, _, _, hrelay⟩ := h
  have hx : s.ti.exchange = none := by
    have := mt hexchange.2 hphase
    simpa using this
  exact ⟨hx, by simpa [State.relayExchange, hx] using hrelay⟩

/-- The completion of an exchange leaves PS between two visits (R8). -/
theorem PhaseSound.complete {s : State} {x y : Exchange} (h : PhaseSound s) (hx : s.ti.exchange = some x)
    (hkind : y.kind = x.kind) (a b : Conclusion) : Walks (completeExchange y a b s) := by
  obtain ⟨hphase, htimer, hmode⟩ := h.walking hx
  have hrelay := h.2.2.2.2.2.2.2
  simp only [State.relayExchange, hx, decide_eq_true_eq] at hrelay
  rcases completeExchange_cases y a b s with ⟨hk, n, nodes, _, e⟩ | ⟨hk, hq, e⟩ | ⟨q, r, hk, hq, _, e⟩ <;> rw [e]
  · obtain ⟨_, hti, hps, _, hru, _, hmc, _⟩ := (intakeEvent_only n (s.setTi { s.ti with exchange := none, nodes := nodes })).keeps
    have hq : s.ru.inFlight = none := by
      have := mt hrelay.1 (by rw [← hkind, hk]; simp)
      simpa using this
    exact ⟨by rw [hps]; exact hphase, by rw [hps]; exact htimer, by rw [hmc]; exact hmode, by rw [hti]; rfl,
      by rw [hru]; exact hq⟩
  · exact ⟨hphase, htimer, hmode, rfl, hq⟩
  · exact ⟨hphase, htimer, hmode, rfl, rfl⟩

/-- Phases of a part that has just entered START. -/
theorem phaseSound_enterStart (reason : StartReason) (s : State) : PhaseSound (enterStart reason s) := by
  simp [PhaseSound, enterStart, State.relayExchange]

/-- The end of START keeps the phases sound (R188). -/
theorem PhaseSound.endStart {s : State} (h : PhaseSound s) (hstart : s.mc.mode = .start) : PhaseSound (endStart s) := by
  have hhalted : s.ps.phase = .halted := h.1.2 (.inl hstart)
  obtain ⟨hx, hq⟩ := h.resting (by simp [hhalted])
  rcases endStart_cases s with e | e <;> rw [e]
  · obtain ⟨_, _, hwalks, htimer, _⟩ := h
    have hposition : s.ps.position = none := by
      have := mt hwalks.2 (by simp [hhalted])
      simpa using this
    simp [PhaseSound, State.relayExchange, buildBlocks, hhalted, hx, hq, hposition, htimer hhalted]
  · exact phaseSound_openCycle (.inl rfl) hx hq

/-- A request that is handled, with what follows it at once, keeps the phases sound (R25, R33). -/
theorem PhaseSound.handled {s : State} (h : PhaseSound s) (r : Option Request) (a code : Byte) (ans : Answer)
    (hserved : Served r s ans.state) : PhaseSound (Request.follow r (respond a code ans)) := by
  obtain ⟨_, hphase, htimer, hposition, _, hx, _, _, hq, hmode⟩ := hserved.control
  have kept : ans.state.mc.mode = s.mc.mode → PhaseSound (respond a code ans) :=
    fun hm => h.congr (t := respond a code ans) hphase htimer hposition hm hx hq
  have turned := PhaseSound.turn (t := respond a code ans) h hphase htimer hposition hx hq
  rcases follow_cases r (respond a code ans) with ⟨e, hnot⟩ | ⟨hr, hsurvey, hhalted, e⟩ | ⟨hr, hstop, hwait, e⟩ <;> rw [e]
  · by_cases hr : r = some .mode
    · obtain ⟨hnot1, hnot2⟩ := hnot hr
      subst hr
      change ¬(ans.state.mc.mode = .survey ∧ ans.state.ps.phase = .halted) at hnot1
      change ¬(ans.state.mc.mode = .stopping ∧ ans.state.ps.phase = .waiting) at hnot2
      rw [hphase] at hnot1 hnot2
      rcases hserved.mode_cases with hm | ⟨hm, hm'⟩ | ⟨hm, hm'⟩ | ⟨hm, hm'⟩
      · exact kept hm
      · exact absurd ⟨hm', h.1.2 (.inr hm)⟩ hnot1
      · exact turned (.inr hm) (.inl hm')
      · have hwalk : s.ps.phase = .walking := by
          cases hp : s.ps.phase with
          | walking => rfl
          | waiting => exact absurd ⟨hm', hp⟩ hnot2
          | halted => simpa [hm] using h.1.1 hp
        exact turned (.inl hm) (.inr ⟨hm', hwalk⟩)
    · exact kept (hmode hr)
  · obtain ⟨hx', hq'⟩ := h.resting (by rw [← hphase]; exact fun e => by cases hhalted.symm.trans e)
    exact phaseSound_openCycle (.inl hsurvey) (hx.trans hx') (hq.trans hq')
  · obtain ⟨hx', hq'⟩ := h.resting (by rw [← hphase]; exact fun e => by cases hwait.symm.trans e)
    exact phaseSound_stop (hx.trans hx') (hq.trans hq')

/-- Every command keeps the phases sound. -/
theorem PhaseSound.exec {c : Instr} {s t : State} (h : PhaseSound s) (he : exec c s = .next t) : PhaseSound t := by
  cases exec_effect he with
  | nothing => exact h
  | powerHeld => exact h
  | powerStart => exact phaseSound_enterStart _ _
  | resetAssert => exact h
  | powerLoss => exact h
  | resetStart => exact phaseSound_enterStart _ _
  | resetHeld => exact h
  | startUp _ _ hstart => exact h.endStart hstart
  | restart => exact phaseSound_enterStart _ _
  | written _ _ result => unfold writeEnds; split <;> exact h
  | timer =>
    rcases timerExpires_cases s with e | ⟨_, htimer, hwait, e⟩ | ⟨_, htimer, hwalk, e⟩ <;> rw [e]
    · exact h
    · obtain ⟨hx, hq⟩ := h.resting (by simp [hwait])
      refine phaseSound_openCycle ?_ hx hq
      obtain ⟨hhalted, _⟩ := h
      cases hm : s.mc.mode <;> simp_all
    · simpa [PhaseSound, State.relayExchange, hwalk, htimer] using h
  | frameStarts =>
    rcases frameStarts_cases s with e | ⟨x, hx, _, e⟩ <;> rw [e]
    · exact h
    · exact h.renew hx rfl rfl rfl rfl rfl
  | frameSent =>
    rcases frameSent_cases s with e | ⟨x, hx, _, e⟩ <;> rw [e]
    · exact h
    · exact h.renew hx rfl rfl rfl rfl rfl
  | line _ _ c f hc =>
    rcases whileListening_cases hc s with e | ⟨x, y, hx, _, hkind, _, e | ⟨a, b, e⟩⟩ <;> rw [e]
    · exact h
    · exact h.renew hx rfl hkind rfl rfl rfl
    · exact (h.complete hx hkind a b).continueWalk
  | loadTimeout => exact h
  | uplink => exact h
  | lineBreak =>
    obtain ⟨_, hti, hps, _, _, _, hru, _, hmc, _⟩ := (breakSummary_only (abandonLoad s)).keeps
    exact h.congr (congrArg _ hps) (congrArg _ hps) (congrArg _ hps) (congrArg _ hmc) (congrArg _ hti) (congrArg _ hru)
  | responseSend => exact h
  | responseSent => exact h
  | request _ _ _ c a code r p => exact h.handled r a code _ (judgeRequest_served r p s)

/-- Settles O7: each effect of a command is the stop, a cycle's opening or a walk from a state in which no exchange is in
progress, or leaves the fields of R22. -/
theorem phasesStaySound : Obligations.PhasesStaySound :=
  fun _ _ => step_of_exec (fun _ h => h) (fun _ _ h => h) fun _ _ _ h => h.exec

/-! ### The direction controls (R1) -/

/-- No frame is sent on the trunk and neither line is driven. -/
structure TrunkQuiet (s : State) : Prop where
  dirA : s.ti.dirA = false
  dirB : s.ti.dirB = false
  sending : ∀ x, s.ti.exchange = some x → x.phase ≠ .sending

theorem TrunkQuiet.lines {s : State} (h : TrunkQuiet s) : LinesSound s := by
  obtain ⟨ha, hb, hx⟩ := h
  have : s.trunkSending = false := by
    unfold State.trunkSending
    split
    · exact decide_eq_false (hx _ ‹_›)
    · rfl
  simp [LinesSound, ha, hb, this]

theorem LinesSound.quiet {s : State} (h : LinesSound s) (hx : ∀ x, s.ti.exchange = some x → x.phase ≠ .sending) :
    TrunkQuiet s := by
  have : s.trunkSending = false := by
    unfold State.trunkSending
    split
    · exact decide_eq_false (hx _ ‹_›)
    · rfl
  obtain ⟨hab, ha⟩ := h
  rw [this, Bool.and_false] at ha
  exact ⟨ha, hab.symm.trans ha, hx⟩

/-- Changing TI's Node State list alone keeps the trunk quiet. -/
theorem TrunkQuiet.nodes {s t : State} (h : TrunkQuiet s) (ht : ∃ nodes, t.ti = { s.ti with nodes := nodes }) :
    TrunkQuiet t := by
  obtain ⟨nodes, ht⟩ := ht
  exact ⟨by rw [ht]; exact h.dirA, by rw [ht]; exact h.dirB, by rw [ht]; exact h.sending⟩

/-- A cycle drives no line: its exchange is due, and its frame begins by a command of its own (R1). -/
theorem trunkQuiet_law : CycleLaw TrunkQuiet where
  start := fun {s} h => h.nodes (cycleStart_keeps s).2.2
  sent := fun k h => by
    cases k with
    | poll _ _ _ x _ _ hdue => exact ⟨h.dirA, h.dirB, fun y hy => by cases hy; simp [hdue]⟩
    | relay _ _ _ x _ _ _ _ hdue => exact ⟨h.dirA, h.dirB, fun y hy => by cases hy; simp [hdue]⟩
  completed := fun k h => by cases k; exact h.nodes ⟨_, rfl⟩
  stop := fun {s} h => h.nodes (stop_ru_ti s).2
  ps := fun _ _ _ h => h.nodes ⟨_, rfl⟩

/-- Every command keeps the direction controls (R1, R192). -/
theorem LinesSound.exec {c : Instr} {s t : State} (hp : PhaseSound s) (h : LinesSound s) (he : exec c s = .next t) :
    LinesSound t := by
  have rest : s.ps.phase ≠ .walking → TrunkQuiet s := fun hphase =>
    h.quiet (by rw [(hp.resting hphase).1]; simp)
  have dead : ∀ u : State, u.ti = s.ti → s.live = false → u.live = false → LinesSound u := fun u hti hs hu => by
    obtain ⟨hab, ha⟩ := h
    rw [hs] at ha
    simp only [LinesSound, hti, hu, ← hab, ha]
    simp
  cases exec_effect he with
  | nothing => exact h
  | powerHeld _ hreset => exact dead _ rfl (by simp [State.live, hreset]) (by simp [State.live, cutShort, hreset])
  | powerStart => exact TrunkQuiet.lines ⟨rfl, rfl, by simp [enterStart]⟩
  | resetAssert => exact ⟨rfl, by simp [State.live, cutShort, releaseLines]⟩
  | powerLoss => exact ⟨rfl, by simp [State.live, cutShort, releaseLines]⟩
  | resetStart => exact TrunkQuiet.lines ⟨rfl, rfl, by simp [enterStart]⟩
  | resetHeld _ hreset hpower => exact dead _ rfl (by simp [State.live, hreset]) (by simp [State.live, hpower])
  | startUp _ _ hstart =>
    have hq := rest (by rw [hp.1.2 (.inl hstart)]; simp)
    rcases endStart_cases s with e | e <;> rw [e]
    · exact TrunkQuiet.lines ⟨hq.dirA, hq.dirB, hq.sending⟩
    · refine (trunkQuiet_law.openCycle ?_).lines
      exact ⟨hq.dirA, hq.dirB, hq.sending⟩
  | restart => exact TrunkQuiet.lines ⟨rfl, rfl, by simp [enterStart]⟩
  | written _ _ result => unfold writeEnds; split <;> exact h
  | timer =>
    rcases timerExpires_cases s with e | ⟨_, _, hwait, e⟩ | ⟨_, _, _, e⟩ <;> rw [e]
    · exact h
    · exact (trunkQuiet_law.openCycle (rest (by simp [hwait]))).lines
    · exact h
  | frameStarts _ hlive =>
    rcases frameStarts_cases s with e | ⟨x, _, _, e⟩ <;> rw [e]
    · exact h
    · exact ⟨rfl, by simp [State.trunkSending, hlive]⟩
  | frameSent =>
    rcases frameSent_cases s with e | ⟨x, _, _, e⟩ <;> rw [e]
    · exact h
    · exact TrunkQuiet.lines ⟨rfl, rfl, by simp⟩
  | line _ _ c f hc =>
    rcases whileListening_cases hc s with e | ⟨x, y, hx, hphase, _, hphase', e | ⟨a, b, e⟩⟩ <;> rw [e]
    · exact h
    all_goals have hq := h.quiet (fun z hz => by rw [hx] at hz; cases hz; simp [hphase])
    · exact TrunkQuiet.lines ⟨hq.dirA, hq.dirB, by simp [hphase']⟩
    · refine (trunkQuiet_law.continueWalk ?_).lines
      rcases completeExchange_cases y a b s with ⟨_, n, nodes, _, e⟩ | ⟨_, _, e⟩ | ⟨_, _, _, _, _, e⟩ <;> rw [e]
      · have hti := (intakeEvent_only n (s.setTi { s.ti with exchange := none, nodes := nodes })).keeps.2.1
        exact ⟨by rw [hti]; exact hq.dirA, by rw [hti]; exact hq.dirB, by rw [hti]; simp⟩
      · exact ⟨hq.dirA, hq.dirB, by simp⟩
      · exact ⟨hq.dirA, hq.dirB, by simp⟩
  | loadTimeout => exact h
  | uplink => exact h
  | lineBreak =>
    obtain ⟨hsupply, hti, _⟩ := (breakSummary_only (abandonLoad s)).keeps
    simp only [LinesSound, State.trunkSending, State.live, State.setUi_ti, State.setUi_supply, hti, hsupply]
    exact h
  | responseSend => exact h
  | responseSent => exact h
  | request _ _ _ c a code r p =>
    obtain ⟨hsupply, hphase, _, _, _, hx, ha, hb, _⟩ := (judgeRequest_served r p s).control
    have moved : s.ps.phase ≠ .walking → TrunkQuiet (respond a code (judgeRequest r p s)) := fun hw =>
      have hq := rest hw
      ⟨ha.trans hq.dirA, hb.trans hq.dirB, fun x hx' => hq.sending x (hx.symm.trans hx')⟩
    rcases follow_cases r (respond a code (judgeRequest r p s)) with ⟨e, _⟩ | ⟨_, _, hhalted, e⟩ | ⟨_, _, hwait, e⟩ <;> rw [e]
    · have hsame : LinesSound (judgeRequest r p s).state := by
        simp only [LinesSound, State.trunkSending, State.live, hsupply, hx, ha, hb]
        exact h
      exact hsame
    · refine (trunkQuiet_law.openCycle (moved ?_)).lines
      rw [← hphase]; exact fun e => by cases hhalted.symm.trans e
    · refine (trunkQuiet_law.stop (moved ?_)).lines
      rw [← hphase]; exact fun e => by cases hwait.symm.trans e

/-- Settles O8: a frame begins and ends by its own commands (`frameStarts_cases`, `frameSent_cases`), and every other effect that
touches TI comes when no frame is sent. -/
theorem linesStaySound : Obligations.LinesStaySound :=
  fun _ _ hp h => step_of_exec (P := fun s => PhaseSound s ∧ LinesSound s) (fun _ h => h.2) (fun _ _ h => h)
    (fun _ _ _ h => LinesSound.exec h.1 h.2) ⟨hp, h⟩

/-! ### The Relay Unit (R151) -/

theorem RelaySound.congr {s t : State} (h : RelaySound s) (hru : t.ru = s.ru) : RelaySound t := by
  unfold RelaySound; rw [hru]; exact h

/-- A tag that is held nowhere is none of the tags (R152). -/
theorem RelayState.place_nowhere_iff {ru : RelayState} {tag : Nat} : ru.place tag = .nowhere ↔ tag ∉ ru.tags := by
  have hmem : tag ∈ ru.tags ↔ ru.queue.any (fun q => q.tag == tag) = true ∨
      ru.inFlight.any (fun q => q.tag == tag) = true ∨ ru.results.any (fun r => r.tag == tag) = true := by
    unfold RelayState.tags
    cases ru.inFlight <;> simp [@eq_comm _ tag]
  rw [hmem]
  unfold RelayState.place
  (repeat' split) <;> simp_all

/-- The head of the queue goes in flight (R154). -/
theorem RelaySound.sent {rows : Keyed PollRow} {s t : State} (k : Sent rows s t) (h : RelaySound s) : RelaySound t := by
  cases k with
  | poll => exact h
  | relay position row nodes x q rest _ _ _ _ hqueue hheld =>
    obtain ⟨htags, hlen, _⟩ := h
    simp only [RelaySound, RelayState.tags, RelayState.held, State.setTi_ru, State.setRu_ru] at *
    rw [hqueue] at htags hlen
    refine ⟨?_, by simp at hlen; omega, by simp; omega⟩
    have hsub : (rest.map (fun q => q.tag) ++ [q.tag] ++ s.ru.results.map (fun r => r.tag)).Perm
        (q.tag :: (rest.map (fun q => q.tag) ++ s.ru.results.map (fun r => r.tag))) := by
      rw [List.append_assoc]; exact List.perm_middle
    refine hsub.nodup_iff.2 (htags.sublist ?_)
    simp only [List.map_cons, List.cons_append, List.append_assoc]
    exact (List.Sublist.append_left (List.sublist_append_right _ _) _).cons_cons _

/-- The relay in flight becomes the newest result (R157). -/
theorem RelaySound.complete {s : State} (h : RelaySound s) (x : Exchange) (a b : Conclusion) :
    RelaySound (completeExchange x a b s) := by
  rcases completeExchange_cases x a b s with ⟨_, n, nodes, _, e⟩ | ⟨_, _, e⟩ | ⟨q, r, _, hq, htag, e⟩ <;> rw [e]
  · exact h.congr (intakeEvent_only n _).keeps.2.2.2.2.1
  · exact h
  · obtain ⟨htags, hlen, hheld⟩ := h
    simp only [RelaySound, RelayState.tags, RelayState.held, State.setRu_ru, hq] at *
    refine ⟨?_, hlen, by simpa using hheld⟩
    simp only [Option.toList_some, List.map_cons, List.map_nil, Option.toList_none, List.append_nil, List.map_append,
      htag, List.append_assoc] at htags ⊢
    exact (List.Perm.append_left _ List.perm_append_comm).nodup_iff.1 htags

theorem relaySound_law : CycleLaw RelaySound where
  start := fun {s} h => h.congr (cycleStart_keeps s).2.1
  sent := RelaySound.sent
  completed := fun k h => by cases k; exact h
  stop := fun {s} h => h.congr (stop_ru_ti s).1
  ps := fun _ _ _ h => h

theorem relaySound_enterStart (reason : StartReason) (s : State) : RelaySound (enterStart reason s) := by
  simp [RelaySound, enterStart, RelayState.tags, RelayState.held]

theorem RelaySound.served {r : Option Request} {s t : State} (k : Served r s t) (h : RelaySound s) : RelaySound t := by
  cases k with
  | summaryOpen => exact h.congr (takeBatch_only 0 (s.setZm _)).keeps.2.2.2.2.2.2.1
  | summaryNext => exact h.congr (takeBatch_only s.zm.summary.nextRecord s).keeps.2.2.2.2.2.2.1
  | summaryClose => exact h.congr (closeSummary_only s).keeps.2.2.2.2.2.2.1
  | relaySend _ q hfree hroom =>
    obtain ⟨htags, hlen, hheld⟩ := h
    rw [RelayState.place_nowhere_iff] at hfree
    refine ⟨?_, by simp only [State.setRu_ru, List.length_append, List.length_singleton]; omega, hheld⟩
    simp only [RelayState.tags, State.setRu_ru, List.map_append, List.map_cons, List.map_nil, List.append_assoc,
      List.singleton_append] at *
    exact List.perm_middle.nodup_iff.2 (List.nodup_cons.2 ⟨hfree, htags⟩)
  | relayCollect _ r hr =>
    obtain ⟨htags, hlen, hheld⟩ := h
    refine ⟨htags.sublist ?_, hlen, ?_⟩
    · exact List.Sublist.append_left (List.erase_sublist.map _) _
    · refine le_trans ?_ hheld
      exact Nat.add_le_add_right List.erase_sublist.length_le _
  | _ => exact h

theorem RelaySound.exec {c : Instr} {s t : State} (h : RelaySound s) (he : exec c s = .next t) : RelaySound t := by
  cases exec_effect he with
  | powerStart => exact relaySound_enterStart _ _
  | resetStart => exact relaySound_enterStart _ _
  | restart => exact relaySound_enterStart _ _
  | startUp =>
    rcases endStart_cases s with e | e <;> rw [e]
    · exact h
    · exact relaySound_law.openCycle h
  | written _ _ result => unfold writeEnds; split <;> exact h
  | timer => exact relaySound_law.timerExpires h
  | frameStarts => rcases frameStarts_cases s with e | ⟨_, _, _, e⟩ <;> rw [e] <;> exact h
  | frameSent => rcases frameSent_cases s with e | ⟨_, _, _, e⟩ <;> rw [e] <;> exact h
  | line _ _ c f hc =>
    exact relaySound_law.whileListening (fun _ h => h) (fun x a b h => h.complete x a b) hc h
  | lineBreak => exact h.congr (breakSummary_only (abandonLoad s)).keeps.2.2.2.2.2.2.1
  | request _ _ _ c a code r p =>
    have hu : RelaySound (judgeRequest r p s).state := RelaySound.served (judgeRequest_served r p s) h
    exact relaySound_law.follow (s := respond a code (judgeRequest r p s)) r hu
  | _ => exact h

/-- Settles O17: RU changes where the head of the queue goes in flight, where it becomes a result, and by the two requests. -/
theorem relayStaysSound : Obligations.RelayStaysSound :=
  fun _ _ => step_of_exec (fun _ h => h) (fun _ _ h => h) fun _ _ _ h => h.exec

end Sys2Proof.Machine

/-! SUPPORT. What an event does to the pairs, one change at a time, and what a boundary keeps; the summary read sequence (R119 to
R126), and the statement O16. -/

namespace Sys2Proof.Machine

/-! ### The changes of the pairs -/

/-- One pair of the active table is evaluated (R88), or dropped from a judged state (R102, R103), with the notice after it. -/
inductive PairChange (s : State) : State → Prop
  | evaluated (e : Nat × PairRow) (he : e ∈ s.tb.active.pair) (r : PairRecord) (hr : s.pe.pairs.get e.1 = some r) :
      PairChange s (writePair e.1 e.2 (evaluated s e.2 r) s)
  | dropped (e : Nat × PairRow) (he : e ∈ s.tb.active.pair) (r : PairRecord) (hr : s.pe.pairs.get e.1 = some r) (l : Level)
      (hjudged : r.state = .judged l) (reason : Reason) : PairChange s (writePair e.1 e.2 (r.toUnknown reason) s)

/-- The pairs are changed one after the other. -/
abbrev PairChanges : State → State → Prop := Relation.ReflTransGen PairChange

theorem PairChange.only {s t : State} (h : PairChange s t) : PairsOnly s t := by
  cases h <;> exact writePair_only ..

theorem PairChanges.of_drop {s : State} {e : Nat × PairRow} (he : e ∈ s.tb.active.pair) (reason : Reason) :
    PairChanges s (dropPair e.1 e.2 reason s) := by
  unfold dropPair
  split
  · split
    · exact .single (.dropped e he _ ‹_› _ ‹_› reason)
    · exact .refl
  · exact .refl

/-- A run over the rows of the PAIR table, each of whose steps changes pairs, changes pairs. -/
theorem foldl_pairChanges {f : State → Nat × PairRow → State}
    (hf : ∀ s e, e ∈ s.tb.active.pair → PairChanges s (f s e)) :
    ∀ (rows : Keyed PairRow) (s : State), (∀ e ∈ rows, e ∈ s.tb.active.pair) → PairChanges s (rows.foldl f s)
  | [], s, _ => .refl
  | e :: rows, s, hrows => by
    have h := hf s e (hrows e (by simp))
    have htb : (f s e).tb = s.tb := by
      refine Relation.ReflTransGen.rec (motive := fun t _ => t.tb = s.tb) rfl ?_ h
      exact fun _ hc ih => hc.only.keeps.2.2.2.2.1.trans ih
    refine h.trans (foldl_pairChanges hf rows (f s e) fun e' he' => ?_)
    rw [htb]
    exact hrows e' (by simp [he'])

theorem pairNotice_changes (lost : List (Nat × Quality)) (updated : List Nat) (s : State) :
    PairChanges s (pairNotice lost updated s) := by
  have hdrops : PairChanges s (s.tb.active.pair.foldl (dropLost lost) s) := by
    refine foldl_pairChanges (fun s e he => ?_) _ s fun _ h => h
    unfold dropLost
    split
    · exact .of_drop he _
    · exact .refl
  have htb : (s.tb.active.pair.foldl (dropLost lost) s).tb = s.tb :=
    (foldl_keeps PairsOnly PairsOnly.refl PairsOnly.trans _ (dropLost_only lost) _ s).keeps.2.2.2.2.1
  refine hdrops.trans ?_
  unfold pairNotice
  dsimp only
  refine foldl_pairChanges (fun s e he => ?_) _ _ fun _ h => h
  unfold evaluatePair
  split
  · split
    · exact .single (.evaluated e he _ ‹_›)
    · exact .refl
  · exact .refl

theorem stopPairs_changes (s : State) : PairChanges s (stopPairs s) :=
  foldl_pairChanges (fun _ _ he => .of_drop he .stopped) _ s fun _ h => h

/-- What every change of a pair keeps, an event keeps. -/
theorem PairChanges.law {P : State → Prop} (hP : ∀ {s t}, PairChange s t → P s → P t) {s t : State} (h : PairChanges s t)
    (hs : P s) : P t :=
  Relation.ReflTransGen.rec (motive := fun t _ => P t) hs (fun _ hc ih => hP hc ih) h

/-- A boundary keeps what its work and the taking of the pending commit keep. -/
theorem boundary_law {P : State → Prop} {work : State → State} (honly : ∀ s, ReadingsOnly s (work s))
    (hnext : ∀ {s}, P s → P s.nextOrder) (hwork : ∀ {s}, P s → P (work s))
    (hcommit : ∀ {s c}, s.tb.pendingCommit = some c → P s → P (takeCommit c s)) {s : State} (hs : P s) :
    P (boundary work s) := by
  rcases boundary_cases work s with ⟨_, h⟩ | ⟨c, hc, h | h⟩ <;> rw [h]
  · exact hwork hs
  · exact hwork (hcommit hc (hnext hs))
  · exact hcommit (by rw [(honly _).keeps.2.2.2.1]; exact hc) (hwork (hnext hs))

/-! ### The summary read sequence -/

/-- The bank and the summary read sequence are those of another state. -/
def SummaryKept (s t : State) : Prop := t.zm.bank = s.zm.bank ∧ t.zm.summary = s.zm.summary

theorem zoneNotice_summary (zone : Nat) (s : State) : SummaryKept s (zoneNotice zone s) := by
  unfold SummaryKept zoneNotice
  split <;> exact ⟨rfl, rfl⟩

theorem writePair_summary (pair : Nat) (row : PairRow) (r : PairRecord) (s : State) : SummaryKept s (writePair pair row r s) :=
  zoneNotice_summary row.zone (s.setPe { s.pe with pairs := s.pe.pairs.put pair r })

theorem PairChanges.summary {s t : State} (h : PairChanges s t) : SummaryKept s t := by
  refine h.law (P := SummaryKept s) (fun {u v} hc hu => ?_) ⟨rfl, rfl⟩
  have hv : SummaryKept u v := by cases hc <;> exact writePair_summary ..
  exact ⟨hv.1.trans hu.1, hv.2.trans hu.2⟩

theorem boundary_summary {work : State → State} (honly : ∀ s, ReadingsOnly s (work s)) (hwork : ∀ s, SummaryKept s (work s))
    (s : State) : SummaryKept s (boundary work s) :=
  boundary_law (P := SummaryKept s) honly (fun h => h) (fun {u} h => ⟨(hwork u).1.trans h.1, (hwork u).2.trans h.2⟩)
    (fun _ h => h) ⟨rfl, rfl⟩

theorem intakeEvent_summary (n : Notice) (s : State) : SummaryKept s (intakeEvent n s) :=
  (pairNotice_changes _ _ (s.setSi _)).summary

theorem countDown_summary (s : State) : SummaryKept s (countDown s) := (pairNotice_changes _ _ (s.setSi _)).summary

theorem stopWork_summary (s : State) : SummaryKept s (stopWork s) := (stopPairs_changes (s.setSi _)).summary

theorem cycleStart_summary (s : State) : SummaryKept s (cycleStart s) :=
  boundary_summary countDown_only countDown_summary
    (s.setPs { s.ps with cycle := s.ps.cycle + 1, phase := .walking, position := none })

theorem completeExchange_summary (x : Exchange) (a b : Conclusion) (s : State) : SummaryKept s (completeExchange x a b s) := by
  rcases completeExchange_cases x a b s with ⟨_, n, nodes, _, e⟩ | ⟨_, _, e⟩ | ⟨q, r, _, _, _, e⟩ <;> rw [e]
  · exact intakeEvent_summary n (s.setTi { s.ti with exchange := none, nodes := nodes })
  · exact ⟨rfl, rfl⟩
  · exact ⟨rfl, rfl⟩

/-- What an event of the cycle does to the summary read sequence: it is closed with nothing held; or the bank and the position
stay, and the held count is within its bound where it has changed (R119, R120). -/
def SummaryMove (z z' : ZoneState) : Prop :=
  (z'.summary.isOpen = false ∧ z'.summary.held = 0 ∧ z'.summary.nextRecord = 0) ∨
  (z'.bank = z.bank ∧ z'.summary.isOpen = z.summary.isOpen ∧ z'.summary.nextRecord = z.summary.nextRecord ∧
    (z.summary.isOpen = true → z'.summary.broken = z.summary.broken) ∧
    (z'.summary.held = z.summary.held ∨ z.summary.isOpen = true ∧ z'.summary.held ≤ Config.holdLimit))

theorem SummaryMove.of_kept {s t : State} (h : SummaryKept s t) : SummaryMove s.zm t.zm :=
  .inr (by rw [h.1, h.2]; exact ⟨rfl, rfl, rfl, fun _ => rfl, .inl rfl⟩)

theorem SummaryMove.trans {z z' z'' : ZoneState} (h : SummaryMove z z') (k : SummaryMove z' z'') : SummaryMove z z'' := by
  rcases k with k | ⟨kbank, kopen, knext, kbroken, kheld⟩
  · exact .inl k
  · rcases h with ⟨hopen, hheld, hnext⟩ | ⟨hbank, hopen, hnext, hbroken, hheld⟩
    · rcases kheld with kheld | ⟨e, _⟩
      · exact .inl ⟨kopen.trans hopen, kheld.trans hheld, knext.trans hnext⟩
      · rw [hopen] at e; cases e
    · refine .inr ⟨kbank.trans hbank, kopen.trans hopen, knext.trans hnext,
        fun e => (kbroken (hopen.trans e)).trans (hbroken e), ?_⟩
      rcases kheld with kheld | ⟨ko, kheld⟩
      · rw [kheld]; exact hheld
      · exact .inr ⟨by rw [← hopen]; exact ko, kheld⟩

/-- A move keeps the bounds, and the bank of a sequence that stays open. -/
theorem SummaryMove.sound {s t : State} (h : SummaryMove s.zm t.zm) (hs : SummarySound s) :
    SummarySound t ∧ (s.zm.summary.isOpen = true → t.zm.summary.isOpen = true → t.zm.bank = s.zm.bank) := by
  obtain ⟨hlimit, hclosed, hopened⟩ := hs
  rcases h with ⟨hopen, hheld, hnext⟩ | ⟨hbank, hopen, hnext, hbroken, hheld⟩
  · refine ⟨⟨by rw [hheld]; exact Nat.zero_le _, fun _ => ⟨hheld, hnext⟩, fun e => ?_⟩, fun _ e => ?_⟩ <;>
      rw [hopen] at e <;> cases e
  · refine ⟨⟨?_, fun e => ?_, fun e => ?_⟩, fun _ _ => hbank⟩
    · rcases hheld with hheld | ⟨_, hheld⟩
      · rw [hheld]; exact hlimit
      · exact hheld
    · rw [hopen] at e
      obtain ⟨held0, next0⟩ := hclosed e
      rcases hheld with hheld | ⟨e', _⟩
      · exact ⟨hheld.trans held0, hnext.trans next0⟩
      · rw [e] at e'; cases e'
    · rw [hopen] at e
      rw [hbroken e, hnext, hbank]
      exact hopened e

theorem closeSummary_move (s : State) : SummaryMove s.zm (closeSummary s).zm := by
  rw [closeSummary_eq]; exact .inl ⟨rfl, rfl, rfl⟩

theorem breakSummary_move (s : State) : SummaryMove s.zm (breakSummary s).zm := by
  unfold breakSummary
  split
  · rw [closeSummary_eq]; exact .inl ⟨rfl, rfl, rfl⟩
  · exact .of_kept ⟨rfl, rfl⟩

/-- A completion publishes, defers or breaks (R118 to R120): of a sequence that stays open it counts one held completion. -/
theorem zoneCompletion_move {s : State} (h : s.zm.summary.isOpen = false → s.zm.summary.held = 0 ∧ s.zm.summary.nextRecord = 0) :
    SummaryMove s.zm (zoneCompletion s).zm := by
  unfold zoneCompletion publish
  split
  · rename_i hopen
    split
    · exact .inl ⟨rfl, rfl, rfl⟩
    · rename_i hlimit
      rw [not_or, Nat.not_le] at hlimit
      exact .inr ⟨rfl, rfl, rfl, fun _ => rfl, .inr ⟨hopen, hlimit.2⟩⟩
  · rename_i hopen
    have hopen := Bool.eq_false_of_not_eq_true hopen
    exact .inl ⟨hopen, h hopen⟩

theorem stop_move (s : State) : SummaryMove s.zm (stop s).zm := by
  rw [stop_eq]
  exact (breakSummary_move s).trans (.of_kept (boundary_summary stopWork_only stopWork_summary (stopping s)))

/-- Every part of a cycle moves the summary read sequence of a sound state. -/
theorem summaryMove_law {s : State} (hs : SummarySound s) : CycleLaw fun t => SummaryMove s.zm t.zm where
  start := fun {t} h => h.trans (.of_kept (cycleStart_summary t))
  sent := fun k h => by cases k <;> exact h
  completed := fun {t u} k h => by
    obtain ⟨⟨_, hclosed, _⟩, _⟩ := h.sound hs
    cases k with
    | mk => exact h.trans (zoneCompletion_move hclosed)
  stop := fun {t} h => h.trans (stop_move t)
  ps := fun _ _ _ h => h

/-- The batch taken leaves the sequence behind it, or closes it (R122, R123). -/
theorem takeBatch_cases (position : Nat) (s : State) :
    takeBatch position s = closeSummary s ∨
    (position + 8 < s.zm.bank.records.length ∧
      takeBatch position s = s.setZm { s.zm with summary := { s.zm.summary with nextRecord := position + 8 } }) := by
  unfold takeBatch batchIsFinal
  split
  · exact .inl rfl
  · rename_i h
    rw [decide_eq_true_eq, Nat.not_le] at h
    exact .inr ⟨h, rfl⟩

/-- A request keeps the bounds of the summary read sequence, and the bank of one that stays open. -/
theorem SummarySound.served {r : Option Request} {s t : State} (k : Served r s t) (h : SummarySound s) :
    SummarySound t ∧ (s.zm.summary.isOpen = true → t.zm.summary.isOpen = true → t.zm.bank = s.zm.bank) := by
  have closed : ∀ u, SummarySound (closeSummary u) := fun u => by
    rw [closeSummary_eq]; exact ⟨Nat.zero_le _, fun _ => ⟨rfl, rfl⟩, fun e => by cases e⟩
  have notOpen : ∀ u, (closeSummary u).zm.summary.isOpen ≠ true := fun u => by rw [closeSummary_eq]; simp
  cases k with
  | summaryOpen _ hclosed =>
    refine ⟨?_, fun e => by rw [hclosed] at e; cases e⟩
    rcases takeBatch_cases 0 (s.setZm { s.zm with summary := { isOpen := true, nextRecord := 0, held := 0, broken := false } })
      with e | ⟨hmore, e⟩ <;> rw [e]
    · exact closed _
    · exact ⟨Nat.zero_le _, fun e => (by cases e), fun _ => ⟨rfl, hmore⟩⟩
  | summaryNext _ hopen =>
    obtain ⟨hlimit, _, hopened⟩ := h
    rcases takeBatch_cases s.zm.summary.nextRecord s with e | ⟨hmore, e⟩ <;> rw [e]
    · exact ⟨closed _, fun _ e => absurd e (notOpen s)⟩
    · refine ⟨⟨hlimit, fun e => ?_, fun _ => ⟨(hopened hopen).1, hmore⟩⟩, fun _ _ => rfl⟩
      exact absurd (hopen.symm.trans e) (by simp)
  | summaryClose => exact ⟨closed _, fun _ e => absurd e (notOpen s)⟩
  | brokenTold _ _ hclosed hbroken =>
    obtain ⟨hlimit, hshut, _⟩ := h
    refine ⟨⟨hlimit, hshut, fun e => ?_⟩, fun _ _ => rfl⟩
    exact absurd (hclosed.symm.trans e) (by simp)
  | takeAlerts => exact ⟨h, fun _ _ => rfl⟩
  | _ => exact ⟨h, fun _ _ => rfl⟩

/-- A MODE changes of the summary read sequence the broken marker of a closed one at most. -/
theorem Served.mode_move {r : Option Request} {s t : State} (k : Served r s t) (hr : r = some .mode) :
    SummaryMove s.zm t.zm := by
  cases k with
  | brokenTold _ _ hclosed => exact .inr ⟨rfl, rfl, rfl, fun e => absurd (hclosed.symm.trans e) (by simp), .inl rfl⟩
  | nothing => exact .of_kept (s := s) ⟨rfl, rfl⟩
  | mode => exact .of_kept (s := s) ⟨rfl, rfl⟩
  | _ => cases hr

/-- Every command keeps the bounds of the summary read sequence, and the bank of one that stays open. -/
theorem SummarySound.exec {c : Instr} {s t : State} (h : SummarySound s) (he : exec c s = .next t) :
    SummarySound t ∧ (s.zm.summary.isOpen = true → t.zm.summary.isOpen = true → t.zm.bank = s.zm.bank) := by
  have moved : ∀ {t : State}, SummaryMove s.zm t.zm →
      SummarySound t ∧ (s.zm.summary.isOpen = true → t.zm.summary.isOpen = true → t.zm.bank = s.zm.bank) :=
    fun k => k.sound h
  have law := summaryMove_law h
  have same : SummaryMove s.zm s.zm := .of_kept (s := s) (t := s) ⟨rfl, rfl⟩
  have started : ∀ reason u, SummaryMove s.zm (enterStart reason u).zm := fun _ _ => .inl ⟨rfl, rfl, rfl⟩
  cases exec_effect he with
  | powerStart => exact moved (started _ _)
  | resetStart => exact moved (started _ _)
  | restart => exact moved (started _ _)
  | startUp =>
    rcases endStart_cases s with e | e <;> rw [e]
    · exact moved (.of_kept (s := s) ⟨rfl, rfl⟩)
    · exact moved (law.openCycle (.of_kept (s := s) ⟨rfl, rfl⟩))
  | written _ _ result => refine moved ?_; unfold writeEnds; split <;> exact same
  | timer => exact moved (law.timerExpires same)
  | frameStarts => refine moved ?_; rcases frameStarts_cases s with e | ⟨_, _, _, e⟩ <;> rw [e] <;> exact same
  | frameSent => refine moved ?_; rcases frameSent_cases s with e | ⟨_, _, _, e⟩ <;> rw [e] <;> exact same
  | line _ _ c f hc =>
    exact moved (law.whileListening (fun _ h => h) (fun x a b k => k.trans (.of_kept (completeExchange_summary x a b _))) hc
      same)
  | lineBreak => exact moved (breakSummary_move (abandonLoad s))
  | request _ _ _ c a code r p =>
    by_cases hr : r = some .mode
    · refine moved (law.follow (s := respond a code (judgeRequest r p s)) r ?_)
      exact (judgeRequest_served r p s).mode_move hr
    · have hfollow : Request.follow r (respond a code (judgeRequest r p s)) = respond a code (judgeRequest r p s) := if_neg hr
      rw [hfollow]
      exact SummarySound.served (t := (judgeRequest r p s).state) (judgeRequest_served r p s) h
  | _ => exact moved same

/-- Settles O16: the parts of a cycle move the sequence (`summaryMove_law`), and the three requests open, continue and close it. -/
theorem summaryStaysSound : Obligations.SummaryStaysSound := by
  intro s t h hstep
  rcases step_cases hstep with rfl | ⟨c, rest, _, he⟩
  · exact ⟨h, fun _ _ => rfl⟩
  · exact SummarySound.exec (s := { s with pending := rest }) h he

end Sys2Proof.Machine

/-! SUPPORT. The Table Store's staged copies, the Configuration Store, the uplink and the mode over all commands: the statements O6,
O9, O23 to O26. -/

namespace Sys2Proof.Machine

/-! ### Which commands carry a request -/

theorem Request.code_of_ofCode {code : Byte} {q : Request} (h : Request.ofCode code = some q) : code = q.code := by
  have := List.find?_some h
  exact (eq_of_beq this).symm

/-- The commands that carry a request's frame (notes/assumptions/14.md). -/
theorem Carries.commands {c : Instr} {a code : Byte} {q : Request} {p : List Byte} (h : Carries c a code (some q) p) :
    c = q.command a p ∨ c = .frameForOtherStation a q.code p ∨ c = .unknownRequestCode a q.code p ∨
    ∃ k, c = .uplinkCheckFail a q.code p k := by
  generalize hr : some q = r at h
  cases h with
  | own q' => cases hr; exact .inl rfl
  | other => rw [Request.code_of_ofCode hr.symm]; exact .inr (.inl rfl)
  | unknown => rw [Request.code_of_ofCode hr.symm]; exact .inr (.inr (.inl rfl))
  | checked _ _ _ k => rw [Request.code_of_ofCode hr.symm]; exact .inr (.inr (.inr ⟨k, rfl⟩))

/-! ### The Configuration Store (R181) -/

/-- Of the requests only SAVE changes the Configuration Store. -/
theorem Served.cs {r : Option Request} {s t : State} (h : Served r s t) (hr : r ≠ some .save) : t.cs = s.cs := by
  cases h with
  | save => exact absurd rfl hr
  | summaryOpen => exact (takeBatch_only 0 (s.setZm _)).keeps.2.2.2.2.2.2.2.2.2.1
  | summaryNext => exact (takeBatch_only s.zm.summary.nextRecord s).keeps.2.2.2.2.2.2.2.2.2.1
  | summaryClose => exact (closeSummary_only s).keeps.2.2.2.2.2.2.2.2.2.1
  | _ => rfl

/-- Settles O25: trunk events keep CS (`CycleStep`), and of the requests only SAVE does not (`Served.cs`). -/
theorem storeKeptByOtherCommands : Obligations.StoreKeptByOtherCommands := by
  intro c s t he hne
  cases exec_effect he with
  | powerHeld => simp
  | powerStart => simp
  | resetAssert => simp
  | powerLoss => simp
  | resetStart => simp
  | resetHeld => simp
  | restart => simp
  | written _ _ result => exact .inr (.inl ⟨result, rfl⟩)
  | startUp =>
    rcases endStart_cases s with e | e
    · exact absurd (congrArg State.cs e) hne
    · exact absurd ((congrArg State.cs e).trans (openCycle_step _).only.2.2.1) hne
  | timer => exact absurd (timerExpires_step s).only.2.2.1 hne
  | frameStarts => rcases frameStarts_cases s with e | ⟨_, _, _, e⟩ <;> exact absurd (congrArg State.cs e) hne
  | frameSent => rcases frameSent_cases s with e | ⟨_, _, _, e⟩ <;> exact absurd (congrArg State.cs e) hne
  | line _ _ c f hc => exact absurd (whileListening_step hc s).only.2.2.1 hne
  | lineBreak => exact absurd (breakSummary_only (abandonLoad s)).keeps.2.2.2.2.2.2.2.2.2.1 hne
  | request _ _ _ c a code r p hc =>
    by_cases hr : r = some .save
    · subst hr
      rcases hc.commands with e | e | e | ⟨k, e⟩
      · exact .inr (.inr (.inl ⟨a, p, .inl e⟩))
      · exact .inr (.inr (.inl ⟨a, p, .inr (.inl e)⟩))
      · exact .inr (.inr (.inl ⟨a, p, .inr (.inr e)⟩))
      · exact .inr (.inr (.inr ⟨a, p, k, e⟩))
    · refine absurd ?_ hne
      exact (follow_step r (respond a code (judgeRequest r p s))).only.2.2.1.trans ((judgeRequest_served r p s).cs hr)
  | _ => exact absurd rfl hne

/-! ### The trunk's events leave the uplink (R139, R168, R181) -/

theorem event_step {f : State → State} {s t : State} (hf : CycleStep s (f s)) (h : event f s = .next t) : CycleStep s t := by
  rcases event_cases f s with ⟨_, e⟩ | ⟨_, e⟩ <;> rw [e] at h <;> cases h
  · exact hf
  · exact .refl s

theorem frameStarts_step (s : State) : CycleStep s (frameStarts s) := by
  rcases frameStarts_cases s with e | ⟨_, _, _, e⟩ <;> rw [e]
  · exact .refl s
  · exact .setTi s _

theorem frameSent_step (s : State) : CycleStep s (frameSent s) := by
  rcases frameSent_cases s with e | ⟨_, _, _, e⟩ <;> rw [e]
  · exact .refl s
  · exact .setTi s _

/-- Settles O26: each of these events is a `CycleStep`. -/
theorem trunkLeavesTheUplink : Obligations.TrunkLeavesTheUplink := by
  intro c s t hc he
  have hstep : CycleStep s t := by
    rcases hc with rfl | rfl | rfl | ⟨l, shown, rfl⟩ | ⟨l, rfl⟩ | ⟨a, b, rfl⟩
    · exact event_step (timerExpires_step s) he
    · exact event_step (frameStarts_step s) he
    · exact event_step (frameSent_step s) he
    · exact event_step (whileListening_step (.ends l shown) s) he
    · exact event_step (whileListening_step (.gap l) s) he
    · exact event_step (whileListening_step (.timeout a b) s) he
  obtain ⟨⟨hsupply, hui, hcs, _⟩, htables, hmc⟩ := hstep
  refine ⟨hsupply, hui, hcs, htables.load, ?_, ?_⟩ <;> rcases hmc with e | ⟨_, e⟩ <;> rw [e]

/-! ### Staged copies and the load sequence (R129, R132) -/

theorem StagedTables.copy_setOpened (c : StagedTables) (t u : TableId) :
    (c.setOpened t).copy u = if t = u then .opened else c.copy u := by
  cases t <;> cases u <;> rfl

theorem StagedTables.copy_setNone (c : StagedTables) (t u : TableId) :
    (c.setNone t).copy u = if t = u then .none else c.copy u := by
  cases t <;> cases u <;> rfl

theorem StagedTables.copy_setReady (c : StagedTables) (rows : TableRows) (u : TableId) :
    (c.setReady rows).copy u = if rows.table = u then .ready rows else c.copy u := by
  cases rows <;> cases u <;> rfl

theorem StagedTables.copy_empty (u : TableId) : ({} : StagedTables).copy u = .none := by cases u <;> rfl

/-- Exactly the table of an open load sequence is OPEN, and its prior staged rows are of that table. -/
structure LoadSound (tb : TableStore) : Prop where
  opened : ∀ t, (tb.staged.copy t).code = 1 ↔ tb.load.map (fun l => l.working.table) = some t
  prior : ∀ l ∈ tb.load, ∀ p ∈ l.prior, p.table = l.working.table

theorem workExclusive_iff (s : State) : WorkExclusive s ↔ LoadSound s.tb ∧
    (s.tb.pendingCommit.isSome = true →
      s.tb.load = none ∧ s.cs.saveWrite = none ∧ (s.mc.mode = .survey ∨ s.mc.mode = .stopping)) ∧
    (s.mc.mode = .start → s.ui.receiver = .off) ∧
    (s.cs.saveWrite.isSome = true → s.cs.image = .incomplete ∧ s.cs.state = .damaged) := by
  constructor
  · rintro ⟨hopened, hprior, hrest⟩
    exact ⟨⟨fun t => hopened t (by cases t <;> simp), hprior⟩, hrest⟩
  · rintro ⟨⟨hopened, hprior⟩, hrest⟩
    exact ⟨fun t _ => hopened t, hprior, hrest⟩

/-- With no load sequence open and nothing staged. -/
theorem LoadSound.empty {tb : TableStore} (hstaged : tb.staged = {}) (hload : tb.load = none) : LoadSound tb := by
  refine ⟨fun t => ?_, fun l hl => by rw [hload] at hl; cases hl⟩
  rw [hstaged, hload, StagedTables.copy_empty]
  simp [Staged.code]

/-- A table is OPEN only while it is the load sequence's. -/
theorem LoadSound.not_opened {tb : TableStore} (h : LoadSound tb) {l : LoadSequence} (hl : tb.load = some l) {t : TableId}
    (ht : l.working.table ≠ t) : (tb.staged.copy t).code ≠ 1 := by
  rw [Ne, h.opened t, hl]
  simpa using ht

theorem LoadSound.closeLoad {tb : TableStore} (h : LoadSound tb) {l : LoadSequence} (hl : tb.load = some l) :
    LoadSound (tb.closeLoad l) := by
  refine ⟨fun t => ?_, fun l' hl' => by cases hl'⟩
  simp only [TableStore.closeLoad, StagedTables.copy_setReady, Option.map_none]
  split
  · simp [Staged.code]
  · simpa using h.not_opened hl ‹_›

theorem LoadSound.abandon {tb : TableStore} (h : LoadSound tb) : LoadSound tb.abandon ∧ tb.abandon.load = none := by
  unfold TableStore.abandon
  split
  · exact ⟨h, ‹_›⟩
  · rename_i l hl
    refine ⟨⟨fun t => ?_, fun l' hl' => by cases hl'⟩, rfl⟩
    cases hp : l.prior with
    | none =>
      simp only [StagedTables.copy_setNone, Option.map_none]
      split
      · simp [Staged.code]
      · simpa using h.not_opened hl ‹_›
    | some rows =>
      have htable : rows.table = l.working.table := h.prior l hl rows hp
      simp only [StagedTables.copy_setReady, Option.map_none]
      split
      · simp [Staged.code]
      · rename_i ht
        rw [htable] at ht
        simpa using h.not_opened hl ht

theorem TableStore.startRows_table (tb : TableStore) (t : TableId) (m : LoadMethod) : (tb.startRows t m).table = t := by
  cases m with
  | replace => cases t <;> rfl
  | patch =>
    cases t <;> simp only [TableStore.startRows, StagedTables.copy]
    · cases tb.staged.poll <;> rfl
    · cases tb.staged.probe <;> rfl
    · cases tb.staged.pair <;> rfl
    · cases tb.staged.zone <;> rfl
    · cases tb.staged.general <;> rfl

theorem StagedTables.copy_rows_table {c : StagedTables} {t : TableId} {rows : TableRows} (h : (c.copy t).rows? = some rows) :
    rows.table = t := by
  cases t <;> simp only [StagedTables.copy] at h
  · cases hc : c.poll <;> rw [hc] at h <;> cases h; rfl
  · cases hc : c.probe <;> rw [hc] at h <;> cases h; rfl
  · cases hc : c.pair <;> rw [hc] at h <;> cases h; rfl
  · cases hc : c.zone <;> rw [hc] at h <;> cases h; rfl
  · cases hc : c.general <;> rw [hc] at h <;> cases h; rfl

theorem LoadSound.openLoad {tb : TableStore} (h : LoadSound tb) (hload : tb.load = none) (t : TableId) (m : LoadMethod) :
    LoadSound (tb.openLoad t m) := by
  refine ⟨fun u => ?_, fun l hl p hp => ?_⟩
  · simp only [TableStore.openLoad, StagedTables.copy_setOpened, Option.map_some, TableStore.startRows_table, Option.some.injEq]
    split
    · simp [Staged.code, *]
    · have := h.opened u
      rw [hload] at this
      simp [*]
  · cases hl
    rw [StagedTables.copy_rows_table hp, TableStore.startRows_table]

/-- An entry that applies leaves rows of the same table (R134). -/
theorem TableRows.applyEntry_table {rows rows' : TableRows} {e : List Byte} (h : rows.applyEntry e = some rows') :
    rows'.table = rows.table := by
  unfold TableRows.applyEntry at h
  split at h
  · split at h
    · unfold TableRows.putBytes at h
      split at h
      · cases h
      · cases rows <;> simp only [Option.map_eq_some_iff] at h <;> obtain ⟨_, _, rfl⟩ := h <;> rfl
    · split at h
      · unfold TableRows.delete at h
        split at h
        · cases h
        · cases rows <;> cases h <;> rfl
      · cases h
  · cases h

/-- What every entry that applies keeps, entries keep. -/
theorem applyEntries_law {P : TableRows → Prop} (hP : ∀ {rows rows' e}, TableRows.applyEntry rows e = some rows' → P rows → P rows') :
    ∀ (es : List (List Byte)) (k : Nat) (rows rows' : TableRows), rows.applyEntries k es = .ok rows' → P rows → P rows'
  | [], _, _, _, h, hs => by cases h; exact hs
  | e :: es, k, rows, rows', h, hs => by
    rw [TableRows.applyEntries] at h
    split at h
    · cases h
    · exact applyEntries_law hP es _ _ _ h (hP ‹_› hs)

theorem LoadSound.loadRows {tb : TableStore} (h : LoadSound tb) {l : LoadSequence} (hl : tb.load = some l) {rows : TableRows}
    (ht : rows.table = l.working.table) : LoadSound { tb with load := some { l with working := rows } } := by
  obtain ⟨hopened, hprior⟩ := h
  refine ⟨fun t => ?_, fun l' hl' p hp => ?_⟩
  · have := hopened t
    rw [hl] at this
    simpa [ht] using this
  · cases hl'
    exact (hprior l hl p hp).trans ht.symm

/-! ### What is in progress together -/

/-- The stop leaves no commit pending (R143). -/
theorem stop_pending (s : State) : (stop s).tb.pendingCommit = none := by
  obtain ⟨hnone, hsome⟩ := boundary_tb stopWork_only (stopping s)
  rw [stop_eq]
  cases h : (stopping s).tb.pendingCommit with
  | none => rw [hnone h]; exact h
  | some c => rw [hsome c h]

/-- Taking the pending commit keeps the load sequence's laws. -/
theorem WorkExclusive.takes {s : State} (h : WorkExclusive s) {tb : TableStore} (k : TakesPending s.tb tb) :
    LoadSound tb ∧ tb.load = s.tb.load ∧ (tb.pendingCommit.isSome = true → s.tb.pendingCommit.isSome = true) := by
  rw [workExclusive_iff] at h
  obtain ⟨hload, hpending, _⟩ := h
  refine ⟨?_, k.load, ?_⟩
  · rcases k with rfl | ⟨c, hc, rfl⟩
    · exact hload
    · exact .empty rfl (hpending (by simp [hc])).1
  · rcases k with rfl | ⟨c, hc, rfl⟩
    · exact id
    · intro e; cases e

theorem workExclusive_law : CycleLaw WorkExclusive where
  start := fun {s} h => by
    have hw := h
    rw [workExclusive_iff] at h ⊢
    obtain ⟨_, hpending, hstart, hsave⟩ := h
    obtain ⟨hload, hsame, hback⟩ := hw.takes (cycleStart_step s).tables
    obtain ⟨_, hui, hcs, _⟩ := (cycleStart_step s).only
    rw [hui, hcs, (cycleStart_keeps s).1, hsame]
    exact ⟨hload, fun e => hpending (hback e), hstart, hsave⟩
  sent := fun k h => by cases k <;> exact h
  completed := fun k h => by cases k; exact h
  stop := fun {s} h => by
    have hw := h
    rw [workExclusive_iff] at h ⊢
    obtain ⟨_, _, _, hsave⟩ := h
    obtain ⟨hload, _⟩ := hw.takes (stop_takes s)
    obtain ⟨_, _, hcs, _⟩ := stop_cycle s
    rw [stop_pending, hcs, (stop_ps_mc s).2]
    exact ⟨hload, fun e => (by cases e), fun e => (by cases e), hsave⟩
  ps := fun _ _ _ h => h

theorem workExclusive_enterStart (reason : StartReason) (s : State) : WorkExclusive (enterStart reason s) := by
  rw [workExclusive_iff]
  exact ⟨.empty rfl rfl, fun e => (by cases e), fun _ => rfl, fun e => by cases e⟩

/-- Outside START a request, its response fixed, keeps what may be in progress together. -/
theorem WorkExclusive.served {r : Option Request} {s t : State} (k : Served r s t) (h : WorkExclusive s)
    (hstart : s.mc.mode ≠ .start) : WorkExclusive t ∧ t.mc.mode ≠ .start := by
  have same : ∀ {u : State}, u.tb = s.tb → u.cs = s.cs → u.mc.mode = s.mc.mode → WorkExclusive u ∧ u.mc.mode ≠ .start := by
    intro u htb hcs hmc
    refine ⟨?_, by rw [hmc]; exact hstart⟩
    rw [workExclusive_iff] at h ⊢
    obtain ⟨hload, hpending, _, hsave⟩ := h
    rw [htb, hcs, hmc]
    exact ⟨hload, hpending, fun e => absurd e hstart, hsave⟩
  have zones : ∀ {u : State}, ZonesOnly s u → WorkExclusive u ∧ u.mc.mode ≠ .start := fun hz => by
    obtain ⟨_, _, _, _, _, htb, _, _, hmc, hcs, _⟩ := hz.keeps
    exact same htb hcs (congrArg _ hmc)
  have tables : ∀ {u : State}, u.cs = s.cs → u.mc = s.mc → LoadSound u.tb →
      (u.tb.pendingCommit.isSome = true → u.tb.load = none ∧ s.cs.saveWrite = none ∧
        (s.mc.mode = .survey ∨ s.mc.mode = .stopping)) → WorkExclusive u ∧ u.mc.mode ≠ .start := by
    intro u hcs hmc hload hpending
    refine ⟨?_, by rw [hmc]; exact hstart⟩
    rw [workExclusive_iff] at h ⊢
    obtain ⟨_, _, _, hsave⟩ := h
    rw [hcs, hmc]
    exact ⟨hload, hpending, fun e => absurd e hstart, hsave⟩
  have hw := h
  rw [workExclusive_iff] at hw
  obtain ⟨hload, hpending, _, hsave⟩ := hw
  have hidle : ∀ {tb : TableStore}, tb.pendingCommit = s.tb.pendingCommit → tb.load = none → tb.pendingCommit.isSome = true →
      tb.load = none ∧ s.cs.saveWrite = none ∧ (s.mc.mode = .survey ∨ s.mc.mode = .stopping) := fun hp hl e => by
    rw [hp] at e
    exact ⟨hl, (hpending e).2⟩
  have habandon : s.tb.abandon.pendingCommit = s.tb.pendingCommit := by
    unfold TableStore.abandon; split <;> rfl
  cases k with
  | mode _ b target m htarget hafter =>
    have hcases := modeAfter_cases htarget hafter
    have hm : m ≠ .start := by
      rcases hcases with e | ⟨_, _, e, _⟩ | ⟨_, _, e⟩ | ⟨_, _, e⟩ <;> rw [e]
      · exact hstart
      all_goals simp
    refine ⟨?_, hm⟩
    rw [workExclusive_iff]
    refine ⟨hload, fun e => ?_, fun e => absurd e hm, hsave⟩
    obtain ⟨hl, hs, hmode⟩ := hpending e
    refine ⟨hl, hs, ?_⟩
    rcases hcases with e | ⟨_, e, _⟩ | ⟨_, _, e⟩ | ⟨_, _, e⟩
    · rw [State.setMc_mc, e]; exact hmode
    · rcases hmode with e' | e' <;> rw [e] at e' <;> cases e'
    · exact .inl e
    · exact .inr e
  | save _ n image hpend =>
    refine ⟨?_, hstart⟩
    rw [workExclusive_iff]
    exact ⟨hload, fun e => (by rw [State.setCs_tb, hpend] at e; cases e), fun e => absurd e hstart, fun _ => ⟨rfl, rfl⟩⟩
  | summaryOpen => exact zones (ZonesOnly.trans (t := s.setZm _) rfl (takeBatch_only 0 _))
  | summaryNext => exact zones (takeBatch_only s.zm.summary.nextRecord s)
  | summaryClose => exact zones (closeSummary_only s)
  | loadOpen _ t m hpend =>
    obtain ⟨hab, hnone⟩ := hload.abandon
    refine tables rfl rfl (hab.openLoad hnone t m) fun e => ?_
    have hp : (s.tb.abandon.openLoad t m).pendingCommit = none := habandon.trans hpend
    rw [State.setTb_tb, hp] at e; cases e
  | loadRows _ l entries rows hl happly =>
    have ht := applyEntries_law (P := fun x => x.table = l.working.table)
      (fun he hx => (TableRows.applyEntry_table he).trans hx) _ _ _ _ happly rfl
    refine tables rfl rfl (hload.loadRows hl ht) fun e => ?_
    have hno := (hpending e).1
    rw [hl] at hno; cases hno
  | loadClose _ l hl => exact tables rfl rfl (hload.closeLoad hl) (hidle rfl rfl)
  | loadAbandon => exact tables rfl rfl hload.abandon.1 (hidle habandon hload.abandon.2)
  | commitTaken _ hpend _ hl => exact tables rfl rfl (.empty rfl hl) fun e => by cases e
  | commitPending _ hs hl _ hidle' =>
    refine tables rfl rfl ⟨hload.opened, hload.prior⟩ fun _ => ⟨hl, hs, ?_⟩
    cases hm : s.mc.mode with
    | start => exact absurd hm hstart
    | idle => exact absurd hm hidle'
    | survey => exact .inl rfl
    | stopping => exact .inr rfl
  | _ => exact same rfl rfl rfl

/-- Every command keeps what may be in progress together. -/
theorem WorkExclusive.exec {c : Instr} {s t : State} (h : WorkExclusive s) (he : exec c s = .next t) : WorkExclusive t := by
  have hw := h
  rw [workExclusive_iff] at hw
  obtain ⟨hload, hpending, hstart, hsave⟩ := hw
  have cut : ∀ {u : State}, u.tb = s.tb → u.mc = s.mc → u.ui.receiver = s.ui.receiver → WorkExclusive (cutShort u) := by
    intro u htb hmc hui
    rw [workExclusive_iff]
    unfold cutShort
    simp only [State.setCs_tb, State.setCs_mc, State.setCs_ui, State.setCs_cs, htb, hmc, hui]
    exact ⟨hload, fun e => ⟨(hpending e).1, trivial, (hpending e).2.2⟩, hstart, fun e => by cases e⟩
  have abandoned : WorkExclusive (abandonLoad s) := by
    obtain ⟨hab, hnone⟩ := hload.abandon
    rw [workExclusive_iff]
    refine ⟨hab, fun e => ⟨hnone, (hpending ?_).2⟩, hstart, hsave⟩
    have hp : s.tb.abandon.pendingCommit = s.tb.pendingCommit := by unfold TableStore.abandon; split <;> rfl
    rw [← hp]; exact e
  have receives : ∀ {u v : State}, WorkExclusive u → u.mc.mode ≠ .start → v.tb = u.tb → v.cs = u.cs → v.mc.mode = u.mc.mode →
      WorkExclusive v := by
    intro u v hu hmode htb hcs hmc
    rw [workExclusive_iff] at hu ⊢
    obtain ⟨hl, hp, _, hs⟩ := hu
    rw [htb, hcs, hmc]
    exact ⟨hl, hp, fun e => absurd e hmode, hs⟩
  cases exec_effect he with
  | nothing => exact h
  | powerHeld => exact cut rfl rfl rfl
  | powerStart => exact workExclusive_enterStart _ _
  | resetAssert => exact cut rfl rfl rfl
  | powerLoss => exact cut rfl rfl rfl
  | resetStart => exact workExclusive_enterStart _ _
  | resetHeld => exact h
  | startUp _ _ hmode =>
    have built : ∀ m : Mode, m ≠ .start → WorkExclusive
        ((((buildBlocks s).setTi { (buildBlocks s).ti with receiversOn := true }).setUi
          { s.ui with receiver := .waitIdle }).setMc { s.mc with mode := m }) := fun m hm => by
      rw [workExclusive_iff]
      refine ⟨hload, fun e => ?_, fun e => absurd e hm, hsave⟩
      rcases (hpending e).2.2 with e' | e' <;> rw [hmode] at e' <;> cases e'
    rcases endStart_cases s with e | e <;> rw [e]
    · exact built .idle (by simp)
    · exact workExclusive_law.openCycle (built .survey (by simp))
  | restart => exact workExclusive_enterStart _ _
  | written _ _ result =>
    unfold writeEnds
    split
    · exact h
    · rw [workExclusive_iff]
      exact ⟨hload, fun e => ⟨(hpending e).1, rfl, (hpending e).2.2⟩, hstart, fun e => by cases e⟩
  | timer => exact workExclusive_law.timerExpires h
  | frameStarts => rcases frameStarts_cases s with e | ⟨_, _, _, e⟩ <;> rw [e] <;> exact h
  | frameSent => rcases frameSent_cases s with e | ⟨_, _, _, e⟩ <;> rw [e] <;> exact h
  | line _ _ c f hc =>
    refine workExclusive_law.whileListening (fun _ h => h) (fun {u} x a b hu => ?_) hc h
    rcases completeExchange_cases x a b u with ⟨_, n, nodes, _, e⟩ | ⟨_, _, e⟩ | ⟨_, _, _, _, _, e⟩ <;> rw [e]
    · obtain ⟨_, _, _, htb, _, hui, hmc, hcs, _⟩ :=
        (intakeEvent_only n (u.setTi { u.ti with exchange := none, nodes := nodes })).keeps
      unfold WorkExclusive
      rw [htb, hui, hmc, hcs]
      exact hu
    · exact hu
    · exact hu
  | loadTimeout => exact abandoned
  | uplink _ _ _ v _ hmove =>
    exact receives (u := s) h (fun e => hmove.before.1 (hstart e)) rfl rfl rfl
  | lineBreak _ _ hspace =>
    obtain ⟨_, _, _, _, _, htb, _, _, hmc, hcs, _⟩ := (breakSummary_only (abandonLoad s)).keeps
    refine receives abandoned (fun e => ?_) htb hcs (congrArg _ hmc)
    rw [hstart e] at hspace; cases hspace
  | responseSend _ _ hresponding => exact receives h (fun e => by rw [hstart e] at hresponding; cases hresponding) rfl rfl rfl
  | responseSent _ _ hresponding => exact receives h (fun e => by rw [hstart e] at hresponding; cases hresponding) rfl rfl rfl
  | request _ _ htakes c a code r p =>
    have hmode : s.mc.mode ≠ .start := fun e => UplinkState.takes.not_off htakes |>.1 (hstart e)
    obtain ⟨hserved, hmode'⟩ := h.served (judgeRequest_served r p s) hmode
    exact workExclusive_law.follow r (receives (v := respond a code (judgeRequest r p s)) hserved hmode' rfl rfl rfl)

/-- Settles O6: the load sequence's laws (`LoadSound`) go with each operation on TB, and a pending commit goes with the cycle. -/
theorem workStaysExclusive : Obligations.WorkStaysExclusive :=
  fun _ _ => step_of_exec (fun _ h => h) (fun _ _ h => h) fun _ _ _ h => h.exec

end Sys2Proof.Machine

/-! SUPPORT. The uplink's response, the mode and the cycle number over all commands: the statements O9, O23 and O24. -/

namespace Sys2Proof.Machine

/-! ### The uplink (R162, R165, R173, R176) -/

/-- A request leaves UI to the response, but that COUNTERS clears the error count (R175). -/
theorem Served.ui {r : Option Request} {s t : State} (h : Served r s t) :
    t.ui = s.ui ∨ t.ui = { s.ui with errors := 0, overflow := false } := by
  cases h with
  | counters => exact .inr rfl
  | summaryOpen => exact .inl (takeBatch_only 0 (s.setZm _)).keeps.2.2.2.2.2.2.2.1
  | summaryNext => exact .inl (takeBatch_only s.zm.summary.nextRecord s).keeps.2.2.2.2.2.2.2.1
  | summaryClose => exact .inl (closeSummary_only s).keeps.2.2.2.2.2.2.2.1
  | _ => exact .inl rfl

/-- A receiver that neither responds nor is off holds no response. -/
theorem UplinkSound.idle {s : State} (h : UplinkSound s) (hr : s.ui.receiver ≠ .responding) :
    s.ui.response = none ∧ s.ui.dir = false := by
  obtain ⟨hresponse, hdir, _⟩ := h
  exact ⟨by simpa using mt hresponse.1 hr, by simpa using mt hdir hr⟩

theorem UplinkSound.congr {s t : State} (h : UplinkSound s) (hui : t.ui = s.ui) : UplinkSound t := by
  unfold UplinkSound; rw [hui]; exact h

theorem uplinkSound_enterStart {reason : StartReason} {s : State} (h : s.ui.errors ≤ 127) : UplinkSound (enterStart reason s) := by
  refine ⟨by simp [enterStart], by simp [enterStart], by simp [enterStart], ?_⟩
  simp only [enterStart]
  split
  · exact h
  · exact Nat.zero_le _

/-- Every command keeps the uplink sound. -/
theorem UplinkSound.exec {c : Instr} {s t : State} (hw : WorkExclusive s) (h : UplinkSound s) (he : exec c s = .next t) :
    UplinkSound t := by
  obtain ⟨_, _, _, hstart, _⟩ := hw
  have herrors := h.2.2.2
  cases exec_effect he with
  | nothing => exact h
  | powerHeld => exact h
  | powerStart => exact uplinkSound_enterStart herrors
  | resetAssert => exact ⟨h.1, fun e => (by cases e), h.2.2⟩
  | powerLoss => exact ⟨h.1, fun e => (by cases e), h.2.2⟩
  | resetStart => exact uplinkSound_enterStart herrors
  | resetHeld => exact h
  | startUp _ _ hmode =>
    have hoff := hstart hmode
    obtain ⟨hresponse, hdir⟩ := h.idle (by rw [hoff]; simp)
    have hheld : s.ui.heldFrame = none := by
      have := mt h.2.2.1 (by rw [hoff]; simp)
      simpa using this
    have hbuilt : ∀ u : State, u.ui = { s.ui with receiver := .waitIdle } → UplinkSound u := fun u hu => by
      simp [UplinkSound, hu, hresponse, hdir, hheld, herrors]
    rcases endStart_cases s with e | e <;> rw [e]
    · exact hbuilt _ rfl
    · exact hbuilt _ (openCycle_step _).only.2.1
  | restart => exact uplinkSound_enterStart herrors
  | written _ _ result => unfold writeEnds; split <;> exact h
  | timer => exact h.congr (timerExpires_step s).only.2.1
  | frameStarts => exact h.congr (frameStarts_step s).only.2.1
  | frameSent => exact h.congr (frameSent_step s).only.2.1
  | line _ _ c f hc => exact h.congr (whileListening_step hc s).only.2.1
  | loadTimeout => exact h
  | uplink _ _ _ v _ hmove =>
    obtain ⟨hresponse, hdir⟩ := h.idle hmove.before.2
    refine ⟨?_, ?_, ?_, ?_⟩
    · simp [hmove.response, hresponse, hmove.after.2]
    · simp [hmove.dir, hdir]
    · intro e
      rcases hmove.held with ⟨hh, hspace⟩ | hh | hh
      · rw [State.setUi_ui, hh] at e; exact absurd (h.2.2.1 e) hspace
      · rw [State.setUi_ui, hh] at e; cases e
      · exact hh
    · rcases hmove.errors with e | e
      · rw [State.setUi_ui, e]; exact herrors
      · exact e
  | lineBreak _ _ hspace =>
    have hui : (breakSummary (abandonLoad s)).ui = s.ui := (breakSummary_only (abandonLoad s)).keeps.2.2.2.2.2.2.2.1
    obtain ⟨hresponse, hdir⟩ := h.idle (by rw [hspace]; simp)
    simp [UplinkSound, hui, hresponse, hdir, herrors]
  | responseSend _ _ hresponding => exact ⟨h.1, fun _ => hresponding, h.2.2⟩
  | responseSent => exact ⟨by simp, fun e => (by cases e), ⟨fun e => (by
      have := h.2.2.1 e; simp_all), herrors⟩⟩
  | request _ _ htakes c a code r p =>
    obtain ⟨_, hresponding, hspace⟩ := UplinkState.takes.not_off htakes
    have hheld : s.ui.heldFrame = none := by simpa using mt h.2.2.1 hspace
    refine UplinkSound.congr (s := respond a code (judgeRequest r p s)) ?_ (follow_step r _).only.2.1
    refine ⟨by simp [respond], fun _ => rfl, fun e => ?_, ?_⟩
    · simp only [respond, State.setUi_ui] at e
      rcases (judgeRequest_served r p s).ui with hu | hu <;> rw [hu] at e <;> simp [hheld] at e
    · simp only [respond, State.setUi_ui]
      rcases (judgeRequest_served r p s).ui with hu | hu <;> rw [hu]
      · exact herrors
      · exact Nat.zero_le _

/-- A response that is held stays as it is until it is sent, and the direction control stays asserted, whatever other command comes
but those of power and of the reset input. -/
theorem response_kept {c : Instr} {s t : State} {r : Response} (hw : WorkExclusive s) (h : UplinkSound s)
    (he : exec c s = .next t) (hr : s.ui.response = some r) :
    (c ∉ [Instr.responseSent, .powerOn, .resetRelease] → t.ui.response = some r) ∧
    (s.ui.dir = true → c ∉ [Instr.responseSent, .powerOn, .resetRelease, .resetAssert, .powerLoss] → t.ui.dir = true) := by
  obtain ⟨_, _, _, hstart, _⟩ := hw
  have hresponding : s.ui.receiver = .responding := h.1.1 (by simp [hr])
  have same : ∀ {u : State} {P Q : Prop}, u.ui = s.ui →
      (P → u.ui.response = some r) ∧ (s.ui.dir = true → Q → u.ui.dir = true) := fun hu => by
    rw [hu]; exact ⟨fun _ => hr, fun e _ => e⟩
  cases exec_effect he with
  | nothing => exact same rfl
  | powerHeld => exact same rfl
  | powerStart => simp
  | resetAssert => exact ⟨fun _ => hr, fun _ hc => absurd hc (by simp)⟩
  | powerLoss => exact ⟨fun _ => hr, fun _ hc => absurd hc (by simp)⟩
  | resetStart => simp
  | resetHeld => simp
  | startUp _ _ hmode => rw [hstart hmode] at hresponding; cases hresponding
  | restart _ _ hdue => simp [restartDue, hr] at hdue
  | written _ _ result => unfold writeEnds; split <;> exact same rfl
  | timer => exact same (timerExpires_step s).only.2.1
  | frameStarts => exact same (frameStarts_step s).only.2.1
  | frameSent => exact same (frameSent_step s).only.2.1
  | line _ _ c f hc => exact same (whileListening_step hc s).only.2.1
  | loadTimeout => exact same rfl
  | uplink _ _ _ v _ hmove => exact absurd hresponding hmove.before.2
  | lineBreak _ _ hspace => rw [hspace] at hresponding; cases hresponding
  | responseSend => exact ⟨fun _ => hr, fun _ _ => rfl⟩
  | responseSent => simp
  | request _ _ htakes => exact absurd hresponding (UplinkState.takes.not_off htakes).2.1

/-- Settles O9: while a response is held no frame is taken and no restart is due, so only its own end drops it. -/
theorem uplinkStaysSound : Obligations.UplinkStaysSound :=
  ⟨fun _ _ hw h => step_of_exec (P := fun s => WorkExclusive s ∧ UplinkSound s) (fun _ h => h.2) (fun _ _ h => h)
    (fun _ _ _ h => UplinkSound.exec h.1 h.2) ⟨hw, h⟩, fun _ _ _ _ => response_kept⟩

/-! ### The commands that ask for a mode, and those that conclude a line -/

/-- The frame of a MODE for a target, by whatever command it comes (notes/assumptions/14.md). -/
def asksMode (c : Instr) (target : Byte) : Prop :=
  ∃ a check, c ∈ [Instr.mode a [target], .frameForOtherStation a 0x04 [target],
    .unknownRequestCode a 0x04 [target], .uplinkCheckFail a 0x04 [target] check]

/-- The trunk events that can complete an exchange (R8). -/
def concludesLine (c : Instr) : Prop :=
  (∃ l shown, c = .lineFrameEnds l shown) ∨ (∃ l, c = .lineFrameGap l) ∨
    (∃ sightA sightB, c = .replyTimeout sightA sightB)

theorem Carries.asksMode {c : Instr} {a code target : Byte} (h : Carries c a code (some .mode) [target]) :
    asksMode c target := by
  rcases h.commands with e | e | e | ⟨k, e⟩
  · exact ⟨a, 0, by rw [e]; simp [Request.command]⟩
  · exact ⟨a, 0, by rw [e]; simp [Request.code]⟩
  · exact ⟨a, 0, by rw [e]; simp [Request.code]⟩
  · exact ⟨a, k, by rw [e]; simp [Request.code]⟩

/-- A command that asks for a mode carries a MODE, if it carries a request. -/
theorem Carries.of_asksMode {c : Instr} {a code target : Byte} {r : Option Request} {p : List Byte} (h : Carries c a code r p)
    (hc : Machine.asksMode c target) : r = some .mode ∧ p = [target] := by
  have hcode : Request.ofCode 0x04 = some .mode := rfl
  obtain ⟨a', check, hc⟩ := hc
  cases h with
  | own q =>
    cases q <;> simp [Request.command] at hc
    exact ⟨rfl, hc.2⟩
  | other => simp at hc; obtain ⟨_, rfl, rfl⟩ := hc; exact ⟨hcode, rfl⟩
  | unknown => simp at hc; obtain ⟨_, rfl, rfl⟩ := hc; exact ⟨hcode, rfl⟩
  | checked => simp at hc; obtain ⟨_, rfl, rfl, _⟩ := hc; exact ⟨hcode, rfl⟩

theorem LineEvent.concludes {c : Instr} {f : Exchange → Exchange} (h : LineEvent c f) : concludesLine c := by
  cases h with
  | ends l shown => exact .inl ⟨l, shown, rfl⟩
  | gap l => exact .inr (.inl ⟨l, rfl⟩)
  | timeout a b => exact .inr (.inr ⟨a, b, rfl⟩)

/-- A command that carries a frame is none of the part's own events. -/
theorem Carries.not_event {c : Instr} {a code : Byte} {r : Option Request} {p : List Byte} (h : Carries c a code r p) :
    c ≠ .startUpEnd ∧ c ≠ .cycleTimerExpiry ∧ ¬ concludesLine c := by
  cases h with
  | own q => cases q <;> simp [Request.command, concludesLine]
  | _ => simp [concludesLine]

/-- A MODE that is handled either is refused, or leaves the mode of R180 for the byte it carries. -/
theorem judgeRequest_mode (p : List Byte) (s : State) :
    (judgeRequest (some .mode) p s).state = s ∨
    ∃ b target m, p = [b] ∧ modeTarget b = some target ∧ modeAfter target s.tb.active.poll s.mc.mode = some m ∧
      (judgeRequest (some .mode) p s).state = s.setMc { s.mc with mode := m } := by
  unfold judgeRequest
  dsimp only
  split
  · change (serveMode p s).state = s ∨ _
    unfold serveMode
    split
    · rename_i b _
      split
      · exact .inl rfl
      · rename_i target htarget
        split
        · exact .inl rfl
        · rename_i m hm
          refine .inr ⟨b, target, m, rfl, htarget, hm, ?_⟩
          simp [Request.serve, serveMode, htarget, hm, accept]
    · exact .inl rfl
  · exact .inl rfl

/-! ### The modes (R179) -/

/-- What a MODE does to the mode with what follows it at once (R25, R33, R180). -/
theorem mode_follow_mode (a code : Byte) (p : List Byte) (s : State) :
    let t := Request.follow (some .mode) (respond a code (judgeRequest (some .mode) p s))
    t.mc.mode = s.mc.mode ∨ (p = [2] ∧ s.mc.mode = .idle ∧ t.mc.mode = .survey) ∨
    (p = [2] ∧ s.mc.mode = .stopping ∧ t.mc.mode = .survey) ∨ (p = [1] ∧ s.mc.mode = .survey ∧ t.mc.mode = .stopping) ∨
    (s.mc.mode = .stopping ∧ t.mc.mode = .idle ∧ s.ps.phase = .waiting) ∨
    (p = [1] ∧ s.mc.mode = .survey ∧ t.mc.mode = .idle ∧ s.ps.phase = .waiting) := by
  intro t
  have hphase : (judgeRequest (some .mode) p s).state.ps.phase = s.ps.phase := (judgeRequest_served _ p s).control.2.1
  have hjudged : (judgeRequest (some .mode) p s).state.mc.mode = s.mc.mode ∨
      (p = [2] ∧ s.mc.mode = .idle ∧ (judgeRequest (some .mode) p s).state.mc.mode = .survey) ∨
      (p = [2] ∧ s.mc.mode = .stopping ∧ (judgeRequest (some .mode) p s).state.mc.mode = .survey) ∨
      (p = [1] ∧ s.mc.mode = .survey ∧ (judgeRequest (some .mode) p s).state.mc.mode = .stopping) := by
    rcases judgeRequest_mode p s with e | ⟨b, target, m, hp, htarget, hm, e⟩
    · rw [e]; exact .inl rfl
    · rw [e, hp]
      rcases modeAfter_cases htarget hm with h | ⟨hb, h, h', _⟩ | ⟨hb, h, h'⟩ | ⟨hb, h, h'⟩
      · exact .inl h
      · exact .inr (.inl ⟨by rw [hb], h, h'⟩)
      · exact .inr (.inr (.inl ⟨by rw [hb], h, h'⟩))
      · exact .inr (.inr (.inr ⟨by rw [hb], h, h'⟩))
  have hkept : t.mc.mode = (judgeRequest (some .mode) p s).state.mc.mode ∨
      ((judgeRequest (some .mode) p s).state.mc.mode = .stopping ∧ t.mc.mode = .idle ∧ s.ps.phase = .waiting) := by
    rcases follow_cases (some .mode) (respond a code (judgeRequest (some .mode) p s)) with
      ⟨e, _⟩ | ⟨_, hmode, _, e⟩ | ⟨_, hmode, hwait, e⟩
    · exact .inl (congrArg (fun u => u.mc.mode) e)
    · have hstep := (openCycle_step (respond a code (judgeRequest (some .mode) p s))).mc
      rw [← e] at hstep
      rcases hstep with h | ⟨h, _⟩
      · exact .inl (congrArg _ h)
      · rw [hmode] at h; cases h
    · refine .inr ⟨hmode, ?_, hphase ▸ hwait⟩
      change (Request.follow _ _).mc.mode = _
      rw [e, (stop_ps_mc _).2]
  rcases hkept with e | ⟨hstop, hidle, hwait⟩
  · rw [e]
    rcases hjudged with h | h | h | h
    · exact .inl h
    · exact .inr (.inl h)
    · exact .inr (.inr (.inl h))
    · exact .inr (.inr (.inr (.inl h)))
  · rcases hjudged with h | ⟨_, _, h⟩ | ⟨_, _, h⟩ | ⟨hp, h, _⟩
    · exact .inr (.inr (.inr (.inr (.inl ⟨h ▸ hstop, hidle, hwait⟩))))
    · rw [h] at hstop; cases hstop
    · rw [h] at hstop; cases hstop
    · exact .inr (.inr (.inr (.inr (.inr ⟨hp, h, hidle, hwait⟩))))

/-- What any command does to the mode, with the command that does it. -/
theorem exec_mode {c : Instr} {s t : State} (he : exec c s = .next t) :
    t.mc.mode = s.mc.mode ∨
    (t.mc.mode = .start ∧ c ∈ [Instr.powerOn, .resetRelease, .restartTaken]) ∨
    (s.mc.mode = .start ∧ (t.mc.mode = .idle ∨ t.mc.mode = .survey) ∧ c = .startUpEnd) ∨
    (s.mc.mode = .idle ∧ t.mc.mode = .survey ∧ asksMode c 2) ∨
    (s.mc.mode = .survey ∧ t.mc.mode = .stopping ∧ asksMode c 1) ∨
    (s.mc.mode = .stopping ∧ t.mc.mode = .survey ∧ asksMode c 2) ∨
    (s.mc.mode = .stopping ∧ t.mc.mode = .idle ∧ (concludesLine c ∨ s.ps.phase = .waiting)) ∨
    (s.mc.mode = .survey ∧ t.mc.mode = .idle ∧ s.ps.phase = .waiting ∧ asksMode c 1) := by
  have kept : ∀ {u : State}, u.mc = s.mc → u.mc.mode = s.mc.mode := fun h => congrArg _ h
  cases exec_effect he with
  | powerStart => exact .inr (.inl ⟨rfl, by simp⟩)
  | resetStart => exact .inr (.inl ⟨rfl, by simp⟩)
  | restart => exact .inr (.inl ⟨rfl, by simp⟩)
  | startUp _ _ hstart =>
    refine .inr (.inr (.inl ⟨hstart, ?_, rfl⟩))
    rcases endStart_cases s with e | e <;> rw [e]
    · exact .inl rfl
    · rcases (openCycle_step ((((buildBlocks s).setTi { (buildBlocks s).ti with receiversOn := true }).setUi
          { s.ui with receiver := .waitIdle }).setMc { s.mc with mode := .survey })).mc with h | ⟨h, _⟩
      · rw [h]; exact .inr rfl
      · cases h
  | written _ _ result => unfold writeEnds; split <;> exact .inl rfl
  | timer =>
    rcases timerExpires_cases s with e | ⟨_, _, hwait, e⟩ | ⟨_, _, _, e⟩ <;> rw [e]
    · exact .inl rfl
    · rcases (openCycle_step s).mc with h | ⟨h, h'⟩
      · exact .inl (kept h)
      · exact .inr (.inr (.inr (.inr (.inr (.inr (.inl ⟨h, by rw [h'], .inr hwait⟩))))))
    · exact .inl rfl
  | frameStarts => rcases frameStarts_cases s with e | ⟨_, _, _, e⟩ <;> rw [e] <;> exact .inl rfl
  | frameSent => rcases frameSent_cases s with e | ⟨_, _, _, e⟩ <;> rw [e] <;> exact .inl rfl
  | line _ _ c f hc =>
    rcases (whileListening_step hc s).mc with h | ⟨h, h'⟩
    · exact .inl (kept h)
    · exact .inr (.inr (.inr (.inr (.inr (.inr (.inl ⟨h, by rw [h'], .inl hc.concludes⟩))))))
  | lineBreak => exact .inl (kept (breakSummary_only (abandonLoad s)).keeps.2.2.2.2.2.2.2.2.1)
  | request _ _ _ c a code r p hc =>
    by_cases hr : r = some .mode
    · subst hr
      rcases mode_follow_mode a code p s with h | ⟨rfl, h, h'⟩ | ⟨rfl, h, h'⟩ | ⟨rfl, h, h'⟩ | ⟨h, h', hw⟩ | ⟨rfl, h, h', hw⟩
      · exact .inl h
      · exact .inr (.inr (.inr (.inl ⟨h, h', hc.asksMode⟩)))
      · exact .inr (.inr (.inr (.inr (.inr (.inl ⟨h, h', hc.asksMode⟩)))))
      · exact .inr (.inr (.inr (.inr (.inl ⟨h, h', hc.asksMode⟩))))
      · exact .inr (.inr (.inr (.inr (.inr (.inr (.inl ⟨h, h', .inr hw⟩))))))
      · exact .inr (.inr (.inr (.inr (.inr (.inr (.inr ⟨h, h', hw, hc.asksMode⟩))))))
    · have hfollow : Request.follow r (respond a code (judgeRequest r p s)) = respond a code (judgeRequest r p s) := if_neg hr
      rw [hfollow]
      exact .inl ((judgeRequest_served r p s).control.2.2.2.2.2.2.2.2.2 hr)
  | _ => exact .inl rfl

/-- Settles O23: `exec_mode` names each change with its command; in WAITING the mode is not STOPPING (R22). -/
theorem modesChangeAsTabled : Obligations.ModesChangeAsTabled := by
  constructor
  · intro s t hstep
    rcases step_cases hstep with rfl | ⟨c, rest, _, he⟩
    · exact .inl rfl
    · rcases exec_mode he with h | ⟨h, _⟩ | ⟨h, h' | h', _⟩ | ⟨h, h', _⟩ | ⟨h, h', _⟩ | ⟨h, h', _⟩ | ⟨h, h', _⟩ | ⟨h, h', hw, _⟩
      · exact .inl h
      · exact .inr (.inl h)
      all_goals simp only at h
      all_goals simp [h, h']
      exact hw
  · intro c s t hp he
    rcases exec_mode he with h | h | h | h | h | h | ⟨h, h', hc | hw⟩ | h
    · exact .inl h
    · exact .inr (.inl h)
    · exact .inr (.inr (.inl h))
    · exact .inr (.inr (.inr (.inl h)))
    · exact .inr (.inr (.inr (.inr (.inl h))))
    · exact .inr (.inr (.inr (.inr (.inr (.inl h)))))
    · exact .inr (.inr (.inr (.inr (.inr (.inr (.inl ⟨h, h', hc⟩))))))
    · have hwalk : s.ps.phase = .walking := hp.2.2.2.2.2.2.1 h
      rw [hw] at hwalk; cases hwalk
    · exact .inr (.inr (.inr (.inr (.inr (.inr (.inr h))))))

/-! ### The cycle number (R23 to R25) -/

/-- The cycle number has advanced by one, and the timer runs for the period now active (R24, R25). -/
def Advanced (s t : State) : Prop :=
  t.ps.cycle = s.ps.cycle + 1 ∧ t.ps.timer = .running t.tb.active.general.cyclePeriod

/-- A cycle's opening advances the cycle number, outside STOPPING. -/
theorem openCycle_advanced {s : State} (hmode : s.mc.mode ≠ .stopping) : Advanced s (openCycle s) := by
  have hps := cycleStart_ps s
  have hstart : Advanced s (cycleStart s) := by rw [Advanced, hps]; exact ⟨rfl, rfl⟩
  have hmc : (cycleStart s).mc = s.mc := (cycleStart_keeps s).1
  have hend : WalkEnd id (cycleStart s) (openCycle s) := openCycle_end id s
  revert hend
  generalize openCycle s = t
  intro hend
  cases hend with
  | sent _ k => cases k <;> exact hstart
  | stopped u hu hstop => rw [hmc] at hstop; exact absurd hstop hmode
  | overran u hu _ hexpired => rw [hstart.2] at hexpired; cases hexpired
  | waits u hu => cases hu; exact hstart

theorem completeExchange_ps_mc (x : Exchange) (a b : Conclusion) (s : State) :
    (completeExchange x a b s).ps = s.ps ∧ (completeExchange x a b s).mc = s.mc := by
  rcases completeExchange_cases x a b s with ⟨_, n, nodes, _, e⟩ | ⟨_, _, e⟩ | ⟨_, _, _, _, _, e⟩ <;> rw [e]
  · obtain ⟨_, _, hps, _, _, _, hmc, _⟩ := (intakeEvent_only n (s.setTi { s.ti with exchange := none, nodes := nodes })).keeps
    exact ⟨hps, hmc⟩
  · exact ⟨rfl, rfl⟩
  · exact ⟨rfl, rfl⟩

/-- A command brings a cycle start: START ends in SURVEY, a MODE enters SURVEY from IDLE, the timer expires in WAITING, or a
completion in SURVEY finds the timer EXPIRED. -/
def startsCycle (c : Instr) (s t : State) : Prop :=
  (c = .startUpEnd ∧ s.mc.mode = .start ∧ t.mc.mode = .survey) ∨
  (asksMode c 2 ∧ s.mc.mode = .idle ∧ t.mc.mode = .survey) ∨
  (c = .cycleTimerExpiry ∧ s.live = true ∧ s.ps.phase = .waiting) ∨
  (concludesLine c ∧ s.mc.mode = .survey ∧ s.ps.timer = .expired ∧ t.ps.timer ≠ .expired)

/-- No cycle starts where mode and timer stay, but at the timer's expiry. -/
theorem not_startsCycle {c : Instr} {s t : State} (hc : c ≠ .cycleTimerExpiry) (hmode : t.mc.mode = s.mc.mode)
    (htimer : t.ps.timer = s.ps.timer) : ¬ startsCycle c s t := by
  rintro (⟨_, h, h'⟩ | ⟨_, h, h'⟩ | ⟨h, _⟩ | ⟨_, _, h, h'⟩)
  · rw [hmode, h] at h'; cases h'
  · rw [hmode, h] at h'; cases h'
  · exact hc h
  · exact h' (htimer.trans h)

/-- Of the commands that carry a frame only a MODE starts a cycle, from IDLE. -/
theorem Carries.startsCycle {c : Instr} {a code : Byte} {r : Option Request} {p : List Byte} {s t : State}
    (hc : Carries c a code r p) (h : startsCycle c s t) : s.mc.mode = .idle ∧ t.mc.mode = .survey := by
  obtain ⟨h1, h2, h3⟩ := hc.not_event
  rcases h with ⟨h, _⟩ | ⟨_, h⟩ | ⟨h, _⟩ | ⟨h, _⟩
  · exact absurd h h1
  · exact h
  · exact absurd h h2
  · exact absurd h h3

/-- What a command does to the cycle number: it stays, advances with a cycle start, or is set to 0 with an entry to START (R37). -/
inductive CycleCount (c : Instr) (s t : State) : Prop
  | kept (hnot : ¬ startsCycle c s t) (hcycle : t.ps.cycle = s.ps.cycle)
  | advanced (hstarts : startsCycle c s t) (h : Advanced s t)
  | cleared (hnot : ¬ startsCycle c s t) (hmode : t.mc.mode = .start) (hcycle : t.ps.cycle = 0)
      (hc : c ∈ [Instr.powerOn, .resetRelease, .restartTaken])

/-- The timer's expiry starts a cycle in WAITING (R24). -/
theorem timer_cycleCount {s t : State} (hp : PhaseSound s) (he : event timerExpires s = .next t) :
    CycleCount .cycleTimerExpiry s t := by
  have only : startsCycle .cycleTimerExpiry s t → s.live = true ∧ s.ps.phase = .waiting := by
    rintro (⟨h, _⟩ | ⟨⟨a, check, h⟩, _⟩ | ⟨_, h⟩ | ⟨h, _⟩)
    · cases h
    · simp at h
    · exact h
    · simp [concludesLine] at h
  rcases event_cases timerExpires s with ⟨hlive, e⟩ | ⟨hlive, e⟩ <;> rw [e] at he <;> cases he
  · by_cases hwait : s.ps.phase = .waiting
    · obtain ⟨_, _, _, _, htimer, _, hstop, _⟩ := hp
      have hopen : timerExpires s = openCycle s := by
        obtain ⟨hstopped, hexpired⟩ := htimer hwait
        unfold timerExpires
        cases ht : s.ps.timer with
        | stopped => exact absurd ht hstopped
        | expired => exact absurd ht hexpired
        | running period => simp [hwait]
      rw [hopen]
      refine .advanced (.inr (.inr (.inl ⟨rfl, hlive, hwait⟩))) (openCycle_advanced fun hm => ?_)
      rw [hstop hm] at hwait; cases hwait
    · refine .kept (fun h => hwait (only h).2) ?_
      rcases timerExpires_cases s with e | ⟨_, _, h, _⟩ | ⟨_, _, _, e⟩
      · rw [e]
      · exact absurd h hwait
      · rw [e]; rfl
  · refine .kept (fun h => ?_) rfl
    rw [hlive] at only
    cases (only h).1

/-- The cycle number after a MODE, with the cycle start or the stop that follows it (R25, R33). -/
theorem mode_cycleCount {c : Instr} {a code : Byte} {p : List Byte} {s : State} (hp : PhaseSound s)
    (hc : Carries c a code (some .mode) p) :
    CycleCount c s (Request.follow (some .mode) (respond a code (judgeRequest (some .mode) p s))) := by
  obtain ⟨_, hphase, _, _, hcycle, _⟩ := (judgeRequest_served (some .mode) p s).control
  rcases follow_cases (some .mode) (respond a code (judgeRequest (some .mode) p s)) with
    ⟨e, hnot⟩ | ⟨_, hsurvey, hhalted, e⟩ | ⟨_, hstop, hwait, e⟩ <;> rw [e]
  · refine .kept (fun h => ?_) hcycle
    obtain ⟨hidle, hsurvey⟩ := hc.startsCycle h
    exact (hnot rfl).1 ⟨hsurvey, hphase.trans (hp.1.2 (.inr hidle))⟩
  · have hidle : s.mc.mode = .idle ∧ p = [2] := by
      have hmode := hp.1.1 (hphase.symm.trans hhalted)
      change (judgeRequest (some .mode) p s).state.mc.mode = .survey at hsurvey
      rcases judgeRequest_mode p s with e | ⟨b, target, m, hb, htarget, hm, e⟩ <;> rw [e] at hsurvey
      · rw [hsurvey] at hmode; rcases hmode with h | h <;> cases h
      · change m = .survey at hsurvey
        subst hsurvey
        rcases modeAfter_cases htarget hm with h | ⟨h2, h, _⟩ | ⟨_, h, _⟩ | ⟨_, h, h'⟩
        · rw [← h] at hmode; rcases hmode with h | h <;> cases h
        · exact ⟨h, by rw [hb, h2]⟩
        · rw [h] at hmode; rcases hmode with h | h <;> cases h
        · cases h'
    obtain ⟨hidle, rfl⟩ := hidle
    obtain ⟨hadv, htimer⟩ := openCycle_advanced (s := respond a code (judgeRequest (some .mode) [2] s)) (by rw [hsurvey]; simp)
    refine .advanced (.inr (.inl ⟨hc.asksMode, hidle, ?_⟩)) ⟨hadv.trans (congrArg (· + 1) hcycle), htimer⟩
    rcases (openCycle_step (respond a code (judgeRequest (some .mode) [2] s))).mc with h | ⟨h, _⟩
    · rw [h]; exact hsurvey
    · rw [hsurvey] at h; cases h
  · obtain ⟨hps, hmc⟩ := stop_ps_mc (respond a code (judgeRequest (some .mode) p s))
    refine .kept (fun h => ?_) (by rw [hps]; exact hcycle)
    have := (hc.startsCycle h).2
    rw [hmc] at this
    cases this

/-- The cycle number after a trunk event on the lines (R8, R30). -/
theorem line_cycleCount {c : Instr} {f : Exchange → Exchange} {s : State} (hp : PhaseSound s) (hc : LineEvent c f) :
    CycleCount c s (whileListening f s) := by
  have hne : c ≠ .cycleTimerExpiry := by cases hc <;> simp
  rcases whileListening_cases hc s with e | ⟨x, y, hx, _, _, _, e | ⟨a, b, e⟩⟩ <;> rw [e]
  · exact .kept (not_startsCycle hne rfl rfl) rfl
  · exact .kept (not_startsCycle hne rfl rfl) rfl
  · obtain ⟨hps, hmc⟩ := completeExchange_ps_mc y a b s
    have hmode := (hp.walking hx).2.2
    have hend : WalkEnd openCycle (completeExchange y a b s) (continueWalk (completeExchange y a b s)) :=
      runWalk_end openCycle _
    revert hend hps hmc
    generalize continueWalk (completeExchange y a b s) = t
    generalize completeExchange y a b s = v
    intro hps hmc hend
    have hcycle : v.ps.cycle = s.ps.cycle := congrArg _ hps
    have htimer : v.ps.timer = s.ps.timer := congrArg _ hps
    cases hend with
    | sent _ k =>
      have ht : t.ps.cycle = v.ps.cycle ∧ t.ps.timer = v.ps.timer ∧ t.mc = v.mc := by cases k <;> exact ⟨rfl, rfl, rfl⟩
      rw [hps, hmc] at ht
      exact .kept (not_startsCycle hne (congrArg _ ht.2.2) ht.2.1) ht.1
    | stopped u hu hstop =>
      rw [hmc] at hstop
      refine .kept ?_ ?_
      · rintro (⟨_, h, _⟩ | ⟨_, h, _⟩ | ⟨h, _⟩ | ⟨_, h, _⟩)
        · rw [hstop] at h; cases h
        · rw [hstop] at h; cases h
        · exact hne h
        · rw [hstop] at h; cases h
      · rw [(stop_ps_mc u).1]
        cases hu
        exact hcycle
    | overran u hu hstop hexpired =>
      have hu' : u.mc = s.mc ∧ u.ps.cycle = s.ps.cycle := by
        cases hu
        exact ⟨hmc, hcycle⟩
      rw [hmc] at hstop
      rw [hps] at hexpired
      obtain ⟨hadv, hrun⟩ := openCycle_advanced (s := u.setPs { u.ps with overruns := satSucc 255 u.ps.overruns })
        (by rw [State.setPs_mc, hu'.1]; exact hstop)
      refine .advanced (.inr (.inr (.inr ⟨hc.concludes, hmode.resolve_right hstop, hexpired, ?_⟩))) ⟨?_, hrun⟩
      · rw [hrun]; simp
      · rw [hadv, ← hu'.2]; rfl
    | waits u hu =>
      cases hu
      exact .kept (not_startsCycle hne (congrArg ModeState.mode hmc :) htimer) hcycle

/-- What any command does to the cycle number. -/
theorem exec_cycleCount {c : Instr} {s t : State} (hp : PhaseSound s) (he : exec c s = .next t) : CycleCount c s t := by
  by_cases hne : c = .cycleTimerExpiry
  · subst hne; exact timer_cycleCount hp he
  have kept : ∀ {u : State}, u.ps = s.ps → u.mc = s.mc → CycleCount c s u := fun hps hmc =>
    .kept (not_startsCycle hne (congrArg _ hmc) (congrArg _ hps)) (congrArg _ hps)
  have cleared : ∀ reason u, c ∈ [Instr.powerOn, .resetRelease, .restartTaken] → CycleCount c s (enterStart reason u) :=
    fun reason u hc => by
      refine .cleared ?_ rfl rfl hc
      rintro (⟨_, _, h⟩ | ⟨_, _, h⟩ | ⟨h, _⟩ | ⟨h, _⟩)
      · cases h
      · cases h
      · exact hne h
      · simp at hc
        rcases hc with rfl | rfl | rfl <;> simp [concludesLine] at h
  cases exec_effect he with
  | powerStart => exact cleared _ _ (by simp)
  | resetStart => exact cleared _ _ (by simp)
  | restart => exact cleared _ _ (by simp)
  | startUp _ _ hstart =>
    rcases endStart_cases s with e | e <;> rw [e]
    · refine .kept ?_ rfl
      rintro (⟨_, _, h⟩ | ⟨_, _, h⟩ | ⟨h, _⟩ | ⟨_, h, _⟩)
      · cases h
      · cases h
      · cases h
      · rw [hstart] at h; cases h
    · refine .advanced (.inl ⟨rfl, hstart, ?_⟩) ?_
      · rcases (openCycle_step ((((buildBlocks s).setTi { (buildBlocks s).ti with receiversOn := true }).setUi
          { s.ui with receiver := .waitIdle }).setMc { s.mc with mode := .survey })).mc with h | ⟨h, _⟩
        · rw [h]; rfl
        · cases h
      · exact openCycle_advanced (s := (((buildBlocks s).setTi { (buildBlocks s).ti with receiversOn := true }).setUi
          { s.ui with receiver := .waitIdle }).setMc { s.mc with mode := .survey }) (by simp)
  | written _ _ result => unfold writeEnds; split <;> exact kept rfl rfl
  | timer => exact absurd rfl hne
  | frameStarts => rcases frameStarts_cases s with e | ⟨_, _, _, e⟩ <;> rw [e] <;> exact kept rfl rfl
  | frameSent => rcases frameSent_cases s with e | ⟨_, _, _, e⟩ <;> rw [e] <;> exact kept rfl rfl
  | line _ _ c f hc => exact line_cycleCount hp hc
  | lineBreak =>
    obtain ⟨_, _, hps, _, _, _, _, _, hmc, _⟩ := (breakSummary_only (abandonLoad s)).keeps
    exact kept hps hmc
  | responseSent => exact .kept (not_startsCycle hne rfl rfl) rfl
  | request _ _ _ c a code r p hc =>
    by_cases hr : r = some .mode
    · subst hr; exact mode_cycleCount hp hc
    · have hfollow : Request.follow r (respond a code (judgeRequest r p s)) = respond a code (judgeRequest r p s) := if_neg hr
      obtain ⟨_, _, htimer, _, hcycle, _, _, _, _, hmode⟩ := (judgeRequest_served r p s).control
      rw [hfollow]
      exact .kept (not_startsCycle hne (hmode hr) htimer) hcycle
  | _ => exact kept rfl rfl

/-- Settles O24: `exec_cycleCount`; in IDLE the phase is HALTED, so no cycle starts there but into SURVEY. -/
theorem cycleNumberAdvances : Obligations.CycleNumberAdvances := by
  constructor
  · intro s t hp hstep
    rcases step_cases hstep with rfl | ⟨c, rest, _, he⟩
    · exact ⟨.inl rfl, fun _ _ => rfl⟩
    · have hp' : PhaseSound { s with pending := rest } := hp
      cases exec_cycleCount hp' he with
      | kept _ hcycle => exact ⟨.inl hcycle, fun _ _ => hcycle⟩
      | advanced hstarts h =>
        refine ⟨.inr (.inl h.1), fun hs ht => ?_⟩
        rcases hstarts with ⟨_, _, h⟩ | ⟨_, _, h⟩ | ⟨_, _, h⟩ | ⟨_, h, _⟩
        · rw [ht] at h; cases h
        · rw [ht] at h; cases h
        · rw [hp'.1.2 (.inr hs)] at h; cases h
        · rw [hs] at h; cases h
      | cleared _ hmode hcycle => exact ⟨.inr (.inr ⟨hmode, hcycle⟩), fun _ ht => by rw [ht] at hmode; cases hmode⟩
  · intro c s t hp he
    cases exec_cycleCount hp he with
    | kept hnot hcycle => exact ⟨fun h => absurd h hnot, fun _ => .inl hcycle⟩
    | advanced hstarts h => exact ⟨fun _ => h, fun hnot => absurd hstarts hnot⟩
    | cleared hnot hmode hcycle hc => exact ⟨fun h => absurd h hnot, fun _ => .inr ⟨hmode, hcycle, hc⟩⟩

end Sys2Proof.Machine

/-! SUPPORT. Numbers and flags as bytes and back (R193), the rows of the five tables as bytes (R197), and the statements O19 and
O20. -/

namespace Sys2Proof.Machine

/-! ### Numbers as bytes -/

theorem byte_toNat (n : Nat) : (byte n).toNat = n % 256 := by simp [byte]

theorem byte_toNat_of_lt {n : Nat} (h : n < 256) : (byte n).toNat = n := by rw [byte_toNat, Nat.mod_eq_of_lt h]

@[simp] theorem byte_of_toNat (b : Byte) : byte b.toNat = b := by simp [byte]

theorem byte_eq_byte_iff {m n : Nat} : byte m = byte n ↔ m % 256 = n % 256 := by
  rw [← BitVec.toNat_inj, byte_toNat, byte_toNat]

theorem wordBytes_eq (h : Half) : wordBytes h = [byte (h.toNat / 256), byte (h.toNat % 256)] := by
  have hi : h.extractLsb' 8 8 = byte (h.toNat / 256) := by
    apply BitVec.eq_of_toNat_eq; simp [byte_toNat, Nat.shiftRight_eq_div_pow]
  have lo : h.extractLsb' 0 8 = byte (h.toNat % 256) := by
    apply BitVec.eq_of_toNat_eq; simp [byte_toNat]
  rw [wordBytes, hi, lo]

theorem natOf_eq (hi lo : Byte) : natOf hi lo = 256 * hi.toNat + lo.toNat := by
  have h : natOf hi lo = (hi ++ lo : BitVec (8 + 8)).toNat := rfl
  rw [h, BitVec.toNat_append, Nat.shiftLeft_eq, Nat.mul_comm, ← Nat.two_pow_add_eq_or_of_lt lo.isLt]

theorem natOf_lt (hi lo : Byte) : natOf hi lo < 65536 := (wordOf hi lo).isLt

/-- The bytes of a word and back. -/
theorem wordOf_bytes (h : Half) : wordOf (h.extractLsb' 8 8) (h.extractLsb' 0 8) = h := by
  apply BitVec.eq_of_toNat_eq
  have e : (wordOf (h.extractLsb' 8 8) (h.extractLsb' 0 8)).toNat = natOf (h.extractLsb' 8 8) (h.extractLsb' 0 8) := rfl
  rw [e, natOf_eq]
  have := h.isLt
  simp [Nat.shiftRight_eq_div_pow]
  omega

theorem wordBytes_wordOf (hi lo : Byte) : wordBytes (wordOf hi lo) = [hi, lo] := by
  have h : (wordOf hi lo).toNat = 256 * hi.toNat + lo.toNat := natOf_eq hi lo
  have := hi.isLt
  have := lo.isLt
  rw [wordBytes_eq, h, show (256 * hi.toNat + lo.toNat) / 256 = hi.toNat by omega,
    show (256 * hi.toNat + lo.toNat) % 256 = lo.toNat by omega, byte_of_toNat, byte_of_toNat]

theorem natBytes_natOf (hi lo : Byte) : natBytes (natOf hi lo) = [hi, lo] := by
  have h : BitVec.ofNat 16 (natOf hi lo) = wordOf hi lo := by
    apply BitVec.eq_of_toNat_eq
    rw [BitVec.toNat_ofNat, Nat.mod_eq_of_lt (natOf_lt hi lo)]; rfl
  rw [natBytes, h, wordBytes_wordOf]

theorem intBytes_intOf (hi lo : Byte) : intBytes (intOf hi lo) = [hi, lo] := by
  rw [intBytes, intOf, BitVec.ofInt_toInt, wordBytes_wordOf]

/-- An unsigned number that fits 16 bits is read back from its bytes. -/
theorem natOf_natBytes {n : Nat} (h : n < 65536) :
    natOf ((BitVec.ofNat 16 n).extractLsb' 8 8) ((BitVec.ofNat 16 n).extractLsb' 0 8) = n := by
  rw [natOf, wordOf_bytes, BitVec.toNat_ofNat, Nat.mod_eq_of_lt h]

/-- A number that fits 16-bit two's complement is read back from its bytes. -/
theorem intOf_intBytes {i : Int} (hlo : -32768 ≤ i) (hhi : i < 32768) :
    intOf ((BitVec.ofInt 16 i).extractLsb' 8 8) ((BitVec.ofInt 16 i).extractLsb' 0 8) = i := by
  rw [intOf, wordOf_bytes, BitVec.toInt_ofInt]
  exact Int.bmod_eq_of_le (by simpa using hlo) (by simpa using hhi)

theorem intBytes_eq (i : Int) : intBytes i = [byte (i % 65536 / 256).toNat, byte (i % 256).toNat] := by
  have h : (BitVec.ofInt 16 i).toNat = (i % 65536).toNat := by simp [BitVec.toNat_ofInt]
  rw [intBytes, wordBytes_eq, h]
  congr 1
  · congr 1; omega
  · congr 1; rw [byte_eq_byte_iff]; omega

theorem natBytes_eq_int (n : Nat) : natBytes n = [byte ((n : Int) % 65536 / 256).toNat, byte ((n : Int) % 256).toNat] := by
  rw [← intBytes_eq, intBytes, BitVec.ofInt_natCast, natBytes]

theorem natBytes_eq (n : Nat) : natBytes n = [byte (n / 256), byte (n % 256)] := by
  rw [natBytes, wordBytes_eq, BitVec.toNat_ofNat]
  congr 1
  · rw [byte_eq_byte_iff]; omega
  · congr 1; rw [byte_eq_byte_iff]; omega

/-! ### Flags and kinds -/

theorem flagOf_eq_some {b : Byte} {a : Bool} : flagOf b = some a ↔ b = byte (bitAt 0 a) := by
  unfold flagOf
  cases a <;> simp only [← BitVec.toNat_inj] <;> split <;> simp [bitAt, byte, *]

theorem flagOf_none {b : Byte} (h : 1 < b.toNat) : flagOf b = none := by
  unfold flagOf
  rw [if_neg (by omega), if_neg (by omega)]

theorem ProbeKind.ofCode_eq_some {n : Nat} {k : ProbeKind} : ProbeKind.ofCode n = some k ↔ n = k.code := by
  unfold ProbeKind.ofCode
  cases k <;> (repeat' split) <;> simp_all [ProbeKind.code]

theorem keepIf_eq_some {α : Type} {ok : α → Bool} {r r' : α} : keepIf ok r = some r' ↔ r = r' ∧ ok r = true := by
  unfold keepIf
  split <;> simp_all

/-! ### The rows that are well formed -/

theorem PollRow.wellFormed_poll {node timeout : Nat} {accept : Bool} :
    (PollRow.poll node timeout accept).wellFormed = true ↔
      1 ≤ node ∧ node ≤ 126 ∧ 10 ≤ timeout ∧ timeout ≤ 250 ∧ timeout % 10 = 0 := by
  simp [PollRow.wellFormed, nodeInRange, timeoutInRange, and_assoc]

theorem ProbeKind.inRange_cases (k : ProbeKind) (v : Int) :
    k.inRange v = true ↔ if k = .airRh then 0 ≤ v ∧ v ≤ 10000 else -4000 ≤ v ∧ v ≤ 6000 := by
  rw [ProbeKind.inRange_iff]
  cases k <;> simp [ProbeKind.lowEnd, ProbeKind.highEnd]

theorem ProbeRow.wellFormed_iff {r : ProbeRow} : r.wellFormed = true ↔
    1 ≤ r.node ∧ r.node ≤ 126 ∧ r.slot ≤ 3 ∧ r.rawLo ≤ 65535 ∧ r.rawHi ≤ 65535 ∧ r.rawLo ≠ r.rawHi ∧
    (∀ ref ∈ [r.refLo, r.refHi], if r.kind = .airRh then 0 ≤ ref ∧ ref ≤ 10000 else -4000 ≤ ref ∧ ref ≤ 6000) ∧
    1 ≤ r.freshCycles ∧ r.freshCycles ≤ 255 := by
  simp only [ProbeRow.wellFormed, nodeInRange, Bool.and_eq_true, decide_eq_true_eq, ProbeKind.inRange_cases, and_assoc,
    List.forall_mem_cons, List.not_mem_nil, false_implies, implies_true, true_and]

theorem PairRow.wellFormed_iff {r : PairRow} : r.wellFormed = true ↔
    r.airT ≤ 127 ∧ r.airRh ≤ 127 ∧ r.surface ≤ 127 ∧ r.zone ≤ 31 ∧ r.skewLimit ≤ 7 := by
  simp [PairRow.wellFormed, and_assoc]

theorem ZoneRow.wellFormed_iff {r : ZoneRow} : r.wellFormed = true ↔
    (∀ at' ∈ [r.watchAt, r.nearAt, r.wetAt], -2000 ≤ at' ∧ at' ≤ 2000) ∧ r.wetAt < r.nearAt ∧ r.nearAt < r.watchAt ∧
    r.hyst ≤ 200 ∧ 1 ≤ r.riseCount ∧ r.riseCount ≤ 15 ∧ 1 ≤ r.fallCount ∧ r.fallCount ≤ 15 ∧ r.lookahead ≤ 32 ∧
    r.blindLimit ≤ 63 := by
  simp only [ZoneRow.wellFormed, thresholdInRange, Bool.and_eq_true, decide_eq_true_eq, List.forall_mem_cons, List.not_mem_nil,
    false_implies, implies_true, and_true]
  omega

theorem GeneralRow.wellFormed_iff {r : GeneralRow} : r.wellFormed = true ↔
    1 ≤ r.uplinkAddress ∧ r.uplinkAddress ≤ 247 ∧ 500 ≤ r.cyclePeriod ∧ r.cyclePeriod ≤ 60000 ∧
    r.cyclePeriod % 100 = 0 ∧ 2 ≤ r.quarantineAfter ∧ r.quarantineAfter ≤ 15 ∧ 2 ≤ r.quarantineInterval ∧
    r.quarantineInterval ≤ 64 ∧ 1 ≤ r.lineSwitchAfter ∧ r.lineSwitchAfter ≤ 15 := by
  simp [GeneralRow.wellFormed, and_assoc]

/-! ### Row bytes and back (R135, R197) -/

theorem PollRow.ofBytes_eq_some {bs : List Byte} {r : PollRow} : PollRow.ofBytes bs = some r ↔
    r.wellFormed = true ∧ (bs = r.bytes ∨ (r = .relay ∧ ∃ x y z, bs = [2, x, y, z])) := by
  constructor
  · intro h
    unfold PollRow.ofBytes at h
    split at h
    · rename_i kind node timeout accept
      split at h
      · rename_i hkind
        split at h
        · cases h
        · rename_i a ha
          obtain ⟨rfl, hok⟩ := keepIf_eq_some.1 h
          refine ⟨hok, .inl ?_⟩
          have hk : kind = byte 1 := by rw [← hkind, byte_of_toNat]
          rw [hk, flagOf_eq_some.1 ha]
          simp [PollRow.bytes]
      · split at h
        · rename_i hkind
          cases h
          refine ⟨rfl, .inr ⟨rfl, node, timeout, accept, ?_⟩⟩
          have hk : kind = 2 := BitVec.eq_of_toNat_eq hkind
          rw [hk]
        · cases h
    · cases h
  · rintro ⟨hok, rfl | ⟨rfl, x, y, z, rfl⟩⟩
    · cases r with
      | relay => rfl
      | poll node timeout accept =>
        obtain ⟨_, hnode, _, htimeout, hten⟩ := PollRow.wellFormed_poll.1 hok
        have hn : (byte node).toNat = node := byte_toNat_of_lt (by omega)
        have ht : 10 * (byte (timeout / 10)).toNat = timeout := by rw [byte_toNat_of_lt (by omega)]; omega
        have hflag : flagOf (byte (bitAt 0 accept)) = some accept := flagOf_eq_some.2 rfl
        have hone : (byte 1).toNat = 1 := rfl
        simp [PollRow.bytes, PollRow.ofBytes, hn, ht, hflag, hone, keepIf, hok]
    · rfl

theorem ProbeRow.ofBytes_eq_some {bs : List Byte} {r : ProbeRow} :
    ProbeRow.ofBytes bs = some r ↔ r.wellFormed = true ∧ bs = r.bytes := by
  constructor
  · intro h
    unfold ProbeRow.ofBytes at h
    split at h
    · rename_i node slot kind rl1 rl0 rh1 rh0 fl1 fl0 fh1 fh0 fresh
      split at h
      · cases h
      · rename_i k hk
        obtain ⟨rfl, hok⟩ := keepIf_eq_some.1 h
        refine ⟨hok, ?_⟩
        have hkind : byte k.code = kind := by rw [← ProbeKind.ofCode_eq_some.1 hk, byte_of_toNat]
        simp [ProbeRow.bytes, natBytes_natOf, intBytes_intOf, hkind]
    · cases h
  · rintro ⟨hok, rfl⟩
    obtain ⟨_, hnode, hslot, hlo, hhi, _, href, _, hfresh⟩ := ProbeRow.wellFormed_iff.1 hok
    have hn : (byte r.node).toNat = r.node := byte_toNat_of_lt (by omega)
    have hs : (byte r.slot).toNat = r.slot := byte_toNat_of_lt (by omega)
    have hf : (byte r.freshCycles).toNat = r.freshCycles := byte_toNat_of_lt (by omega)
    have hk : ProbeKind.ofCode (byte r.kind.code).toNat = some r.kind := by cases r.kind <;> rfl
    have hbound : ∀ ref ∈ [r.refLo, r.refHi], -32768 ≤ ref ∧ ref < 32768 := fun ref hm => by
      have := href ref hm
      split at this <;> omega
    obtain ⟨hflo, hfhi⟩ : (-32768 ≤ r.refLo ∧ r.refLo < 32768) ∧ (-32768 ≤ r.refHi ∧ r.refHi < 32768) :=
      ⟨hbound _ (by simp), hbound _ (by simp)⟩
    change (match ProbeKind.ofCode (byte r.kind.code).toNat with
      | none => none
      | some k => keepIf ProbeRow.wellFormed _) = some r
    rw [hk]
    simp only [keepIf_eq_some, hn, hs, hf, natOf_natBytes (show r.rawLo < 65536 by omega),
      natOf_natBytes (show r.rawHi < 65536 by omega), intOf_intBytes hflo.1 hflo.2, intOf_intBytes hfhi.1 hfhi.2, hok,
      and_self]

theorem PairRow.ofBytes_eq_some {bs : List Byte} {r : PairRow} :
    PairRow.ofBytes bs = some r ↔ r.wellFormed = true ∧ bs = r.bytes := by
  constructor
  · intro h
    unfold PairRow.ofBytes at h
    split at h
    · obtain ⟨rfl, hok⟩ := keepIf_eq_some.1 h
      exact ⟨hok, by simp [PairRow.bytes]⟩
    · cases h
  · rintro ⟨hok, rfl⟩
    obtain ⟨h1, h2, h3, h4, h5⟩ := PairRow.wellFormed_iff.1 hok
    simp only [PairRow.bytes, PairRow.ofBytes, keepIf_eq_some, byte_toNat_of_lt (show r.airT < 256 by omega),
      byte_toNat_of_lt (show r.airRh < 256 by omega), byte_toNat_of_lt (show r.surface < 256 by omega),
      byte_toNat_of_lt (show r.zone < 256 by omega), byte_toNat_of_lt (show r.skewLimit < 256 by omega), hok, and_self]

theorem ZoneRow.ofBytes_eq_some {bs : List Byte} {r : ZoneRow} :
    ZoneRow.ofBytes bs = some r ↔ r.wellFormed = true ∧ bs = r.bytes := by
  constructor
  · intro h
    unfold ZoneRow.ofBytes at h
    split at h
    · obtain ⟨rfl, hok⟩ := keepIf_eq_some.1 h
      exact ⟨hok, by simp [ZoneRow.bytes, intBytes_intOf]⟩
    · cases h
  · rintro ⟨hok, rfl⟩
    obtain ⟨hat, _, _, hhyst, _, hrise, _, hfall, hlook, hblind⟩ := ZoneRow.wellFormed_iff.1 hok
    have hbound : ∀ v ∈ [r.watchAt, r.nearAt, r.wetAt], -32768 ≤ v ∧ v < 32768 := fun v hm => by
      have := hat v hm; omega
    obtain ⟨hw, hn, ht⟩ : (-32768 ≤ r.watchAt ∧ r.watchAt < 32768) ∧ (-32768 ≤ r.nearAt ∧ r.nearAt < 32768) ∧
        (-32768 ≤ r.wetAt ∧ r.wetAt < 32768) := ⟨hbound _ (by simp), hbound _ (by simp), hbound _ (by simp)⟩
    change keepIf ZoneRow.wellFormed _ = some r
    simp only [keepIf_eq_some, intOf_intBytes hw.1 hw.2, intOf_intBytes hn.1 hn.2, intOf_intBytes ht.1 ht.2,
      byte_toNat_of_lt (show r.hyst < 256 by omega), byte_toNat_of_lt (show r.riseCount < 256 by omega),
      byte_toNat_of_lt (show r.fallCount < 256 by omega), byte_toNat_of_lt (show r.lookahead < 256 by omega),
      byte_toNat_of_lt (show r.blindLimit < 256 by omega), hok, and_self]

theorem GeneralRow.ofBytes_eq_some {bs : List Byte} {r : GeneralRow} :
    GeneralRow.ofBytes bs = some r ↔ r.wellFormed = true ∧ bs = r.bytes := by
  constructor
  · intro h
    unfold GeneralRow.ofBytes at h
    split at h
    · split at h
      · cases h
      · rename_i a ha
        obtain ⟨rfl, hok⟩ := keepIf_eq_some.1 h
        refine ⟨hok, ?_⟩
        rw [flagOf_eq_some.1 ha]
        simp [GeneralRow.bytes, natBytes_natOf]
    · cases h
  · rintro ⟨hok, rfl⟩
    obtain ⟨_, haddress, _, hperiod, hhundred, _, hafter, _, hinterval, _, hswitch⟩ := GeneralRow.wellFormed_iff.1 hok
    have hflag : flagOf (byte (bitAt 0 r.autoSurvey)) = some r.autoSurvey := flagOf_eq_some.2 rfl
    change (match flagOf (byte (bitAt 0 r.autoSurvey)) with
      | none => none
      | some a => keepIf GeneralRow.wellFormed _) = some r
    rw [hflag]
    simp only [keepIf_eq_some, byte_toNat_of_lt (show r.uplinkAddress < 256 by omega),
      natOf_natBytes (show r.cyclePeriod / 100 < 65536 by omega), show 100 * (r.cyclePeriod / 100) = r.cyclePeriod by omega,
      byte_toNat_of_lt (show r.quarantineAfter < 256 by omega), byte_toNat_of_lt (show r.quarantineInterval < 256 by omega),
      byte_toNat_of_lt (show r.lineSwitchAfter < 256 by omega), hok, and_self]

/-- Settles O19: each row's bytes are read back as the row (`ofBytes_eq_some`), and no other bytes but a RELAY row's spell one. -/
theorem rowsRoundTrip : Obligations.RowsRoundTrip := by
  refine ⟨⟨fun node timeout accept => ?_, rfl, fun r => ?_, fun r => rfl, fun r => ?_, fun r => ?_⟩,
    ⟨fun _ _ _ => PollRow.wellFormed_poll, rfl, fun _ => ProbeRow.wellFormed_iff, fun _ => PairRow.wellFormed_iff,
      fun _ => ZoneRow.wellFormed_iff, fun _ => GeneralRow.wellFormed_iff⟩,
    fun _ _ => PollRow.ofBytes_eq_some, fun _ _ => ProbeRow.ofBytes_eq_some, fun _ _ => PairRow.ofBytes_eq_some,
    fun _ _ => ZoneRow.ofBytes_eq_some, fun _ _ => GeneralRow.ofBytes_eq_some, fun kind x y z h1 h2 => ?_, fun _ _ _ => rfl,
    fun node timeout accept h => ?_, fun node slot kind _ _ _ _ _ _ _ _ _ h => ?_, fun _ _ _ auto _ _ _ h => ?_⟩
  · cases accept <;> rfl
  · simp only [ProbeRow.bytes, natBytes_eq_int, intBytes_eq]
    cases r.kind <;> rfl
  · simp only [ZoneRow.bytes, intBytes_eq]
  · simp only [GeneralRow.bytes, natBytes_eq_int]
    cases r.autoSurvey <;> rfl
  · have n1 : kind.toNat ≠ 1 := fun e => h1 (BitVec.eq_of_toNat_eq e)
    have n2 : kind.toNat ≠ 2 := fun e => h2 (BitVec.eq_of_toNat_eq e)
    simp [PollRow.ofBytes, n1, n2]
  · simp [PollRow.ofBytes, flagOf_none h]
  · have hk : ProbeKind.ofCode kind.toNat = none := by
      unfold ProbeKind.ofCode
      rw [if_neg (by omega), if_neg (by omega), if_neg (by omega)]
    simp [ProbeRow.ofBytes, hk]
  · simp [GeneralRow.ofBytes, flagOf_none h]

/-! ### Entries of a LOAD_ROWS payload (R135) -/

/-- Bytes are cut into whole pieces exactly as they can be put together from them. -/
theorem chunks_eq_some {n : Nat} (hn : 0 < n) : ∀ (fuel : Nat) (bs : List Byte) (cs : List (List Byte)), bs.length ≤ fuel →
    (chunks n fuel bs = some cs ↔ (∀ c ∈ cs, c.length = n) ∧ cs.flatten = bs) := by
  have nil_iff : ∀ cs : List (List Byte), (some ([] : List (List Byte)) = some cs ↔
      (∀ c ∈ cs, c.length = n) ∧ cs.flatten = []) := by
    intro cs
    cases cs with
    | nil => simp
    | cons c cs =>
      simp only [Option.some.injEq, reduceCtorEq, List.forall_mem_cons, List.flatten_cons, List.append_eq_nil_iff, false_iff]
      rintro ⟨⟨hc, _⟩, rfl, _⟩
      simp at hc; omega
  intro fuel
  induction fuel with
  | zero =>
    intro bs cs h
    obtain rfl : bs = [] := List.length_eq_zero_iff.1 (by omega)
    exact nil_iff cs
  | succ fuel ih =>
    intro bs cs h
    cases bs with
    | nil => exact nil_iff cs
    | cons b bs =>
      have hcons : chunks n (fuel + 1) (b :: bs) = if (b :: bs).length < n then none
          else (chunks n fuel ((b :: bs).drop n)).map fun cs => (b :: bs).take n :: cs := rfl
      rw [hcons]
      split
      · rename_i hshort
        simp only [reduceCtorEq, false_iff]
        rintro ⟨hlen, hflat⟩
        cases cs with
        | nil => cases hflat
        | cons c cs =>
          have hc := hlen c (by simp)
          have := congrArg List.length hflat
          simp only [List.flatten_cons, List.length_append] at this
          omega
      · rename_i hlong
        have hrest := ih ((b :: bs).drop n)
        simp only [List.length_drop] at hrest
        rw [Option.map_eq_some_iff]
        constructor
        · rintro ⟨ds, hds, rfl⟩
          obtain ⟨hlen, hflat⟩ := (hrest ds (by omega)).1 hds
          refine ⟨fun c hc => ?_, by rw [List.flatten_cons, hflat, List.take_append_drop]⟩
          rcases List.mem_cons.1 hc with rfl | hc
          · rw [List.length_take]; omega
          · exact hlen c hc
        · rintro ⟨hlen, hflat⟩
          cases cs with
          | nil => cases hflat
          | cons c cs =>
            have hc : c.length = n := hlen c (by simp)
            rw [List.flatten_cons] at hflat
            refine ⟨cs, (hrest cs (by omega)).2 ⟨fun d hd => hlen d (by simp [hd]), ?_⟩, ?_⟩
            · rw [← hflat, ← hc, List.drop_left]
            · rw [← hflat, ← hc, List.take_left]

/-- Settles O20: `chunks_eq_some`, with the count of entries checked besides. -/
theorem loadEntriesCut : Obligations.LoadEntriesCut := by
  refine ⟨rfl, fun t payload es => ?_⟩
  have hcut := chunks_eq_some (n := t.rowSize + 2) (by omega) payload.length payload
  unfold loadEntries
  cases hchunks : chunks (t.rowSize + 2) payload.length payload with
  | none =>
    simp only [reduceCtorEq, false_iff]
    rintro ⟨_, _, h⟩
    rw [(hcut es le_rfl).2 h] at hchunks
    cases hchunks
  | some cs =>
    have hcs := (hcut cs le_rfl).1 hchunks
    have hunique : (∀ e ∈ es, e.length = t.rowSize + 2) ∧ es.flatten = payload ↔ cs = es := by
      rw [← hcut es le_rfl, hchunks, Option.some.injEq]
    rw [hunique]
    cases cs with
    | nil =>
      simp only [reduceCtorEq, false_iff]
      rintro ⟨h, _, rfl⟩
      simp at h
    | cons c cs =>
      dsimp only
      split
      · rename_i hcount
        rw [Option.some.injEq]
        exact ⟨fun h => h ▸ ⟨by simp, hcount, rfl⟩, fun h => h.2.2⟩
      · rename_i hcount
        simp only [reduceCtorEq, false_iff]
        rintro ⟨_, h, rfl⟩
        exact hcount h

end Sys2Proof.Machine

/-! SUPPORT. The image of the Configuration Store (R182, R200): its bytes and their length, what its judging reads section by
section, and the statement O21. -/

namespace Sys2Proof.Machine

/-! ### The image's bytes and their length -/

theorem PollRow.bytes_length (r : PollRow) : r.bytes.length = 4 := by cases r <;> rfl
theorem ProbeRow.bytes_length (r : ProbeRow) : r.bytes.length = 12 := rfl
theorem PairRow.bytes_length (r : PairRow) : r.bytes.length = 5 := rfl
theorem ZoneRow.bytes_length (r : ZoneRow) : r.bytes.length = 11 := rfl
theorem GeneralRow.bytes_length (r : GeneralRow) : r.bytes.length = 7 := rfl

variable {α : Type}

theorem entriesOf_length {bytes : α → List Byte} {size : Nat} (h : ∀ r, (bytes r).length = size) (t : Keyed α) :
    (entriesOf bytes t).length = (size + 2) * t.length := by
  induction t with
  | nil => rfl
  | cons e t ih =>
    have hcons : entriesOf bytes (e :: t) = putEntry e.1 (bytes e.2) ++ entriesOf bytes t := rfl
    rw [hcons, List.length_append, ih, putEntry, List.length_cons, List.length_cons, h, List.length_cons, Nat.mul_succ]
    omega

/-- The length of an image in bytes (R200). -/
def Tables.imageSize (t : Tables) : Nat :=
  21 + 6 * t.poll.length + 14 * t.probe.length + 7 * t.pair.length + 13 * t.zone.length

theorem imageLength_eq (t : Tables) :
    imageLength 1 t.poll.length t.probe.length t.pair.length t.zone.length = t.imageSize := by
  unfold imageLength Tables.imageSize; omega

theorem imageRows_length (t : Tables) : (imageRows t).length + 12 = t.imageSize := by
  simp only [imageRows, List.length_append, entriesOf_length PollRow.bytes_length, entriesOf_length ProbeRow.bytes_length,
    entriesOf_length PairRow.bytes_length, entriesOf_length ZoneRow.bytes_length, putEntry, List.length_cons,
    GeneralRow.bytes_length, Tables.imageSize]
  omega

theorem storeImage_length (n : Nat) (t : Tables) : (storeImage n t).length = t.imageSize := by
  have h : (imageHeader n t).length = 10 := rfl
  have hrows := imageRows_length t
  have hcheck : (wordBytes (check16 (imageHeader n t ++ imageRows t))).length = 2 := rfl
  rw [storeImage, List.length_append, List.length_append, h, hcheck]
  omega

/-- A sound table holds no more rows than it has indices. -/
theorem rowsSound_length {capacity : Nat} {ok : α → Bool} {t : Keyed α} (h : rowsSound capacity ok t) : t.length ≤ capacity := by
  obtain ⟨hwf, hrows⟩ := h
  have hnodup : t.keys.Nodup := (Keyed.wf_iff_keys.1 hwf).imp fun h => by omega
  have hsub : t.keys ⊆ List.range capacity := by
    intro k hk
    obtain ⟨e, he, rfl⟩ := List.mem_map.1 hk
    exact List.mem_range.2 (hrows e he).1
  simpa [Keyed.keys] using (List.subperm_of_subset hnodup hsub).length_le

theorem Tables.sound.counts {t : Tables} (h : t.sound) :
    t.poll.length ≤ 96 ∧ t.probe.length ≤ 128 ∧ t.pair.length ≤ 64 ∧ t.zone.length ≤ 32 := by
  obtain ⟨hpoll, hprobe, hpair, hzone, _⟩ := h
  exact ⟨rowsSound_length hpoll, rowsSound_length hprobe, rowsSound_length hpair, rowsSound_length hzone⟩

theorem Tables.sound.imageSize_le {t : Tables} (h : t.sound) : t.imageSize ≤ 3253 := by
  obtain ⟨hpoll, hprobe, hpair, hzone⟩ := h.counts
  unfold Tables.imageSize
  omega

/-! ### The reading of entries -/

/-- Rows that are read are sound, and rise from the least index admitted. -/
theorem readEntries_sound {size cap : Nat} {ofBytes : List Byte → Option α} {ok : α → Bool}
    (hok : ∀ bs r, ofBytes bs = some r → ok r = true) : ∀ (n low : Nat) (bs rest : List Byte) (t : Keyed α),
    readEntries size cap ofBytes n low bs = some (t, rest) → rowsSound cap ok t ∧ ∀ e ∈ t, low ≤ e.1
  | 0, low, bs, rest, t, h => by cases h; simp [rowsSound, Keyed.wf]
  | n + 1, low, [], rest, t, h => by cases h
  | n + 1, low, [_], rest, t, h => by cases h
  | n + 1, low, op :: index :: tail, rest, t, h => by
    rw [readEntries] at h
    split at h
    · rename_i hc
      split at h
      · cases h
      · rename_i r hr
        obtain ⟨⟨u, rest'⟩, hu, he⟩ := Option.map_eq_some_iff.1 h
        cases he
        obtain ⟨⟨hwf, hrows⟩, hlow⟩ := readEntries_sound hok n _ _ _ _ hu
        refine ⟨⟨List.pairwise_cons.2 ⟨fun e he => hlow e he, hwf⟩, ?_⟩, ?_⟩
        · rintro e (_ | ⟨_, he⟩)
          · exact ⟨hc.2.2, hok _ _ hr⟩
          · exact hrows e he
        · rintro e (_ | ⟨_, he⟩)
          · exact hc.2.1
          · have := hlow e he; omega
    · cases h

/-- The entries of a sound table are read back as the table, and the bytes behind them are left. -/
theorem readEntries_entriesOf {size cap : Nat} {ofBytes : List Byte → Option α} {bytes : α → List Byte} (hcap : cap ≤ 256)
    (hsize : ∀ r, (bytes r).length = size) (rest : List Byte) : ∀ (t : Keyed α) (low : Nat), Keyed.wf t →
    (∀ e ∈ t, low ≤ e.1 ∧ e.1 < cap ∧ ofBytes (bytes e.2) = some e.2) →
    readEntries size cap ofBytes t.length low (entriesOf bytes t ++ rest) = some (t, rest)
  | [], low, _, _ => rfl
  | (k, r) :: t, low, hwf, hrows => by
    obtain ⟨hlow, hk, hr⟩ := hrows (k, r) (by simp)
    have hindex : (byte k).toNat = k := byte_toNat_of_lt (Nat.lt_of_lt_of_le hk hcap)
    have hone : (byte 1).toNat = 1 := rfl
    have hbytes : entriesOf bytes ((k, r) :: t) ++ rest = byte 1 :: byte k :: (bytes r ++ (entriesOf bytes t ++ rest)) := by
      simp [entriesOf, putEntry]
    have htake : (bytes r ++ (entriesOf bytes t ++ rest)).take size = bytes r := by rw [← hsize r, List.take_left]
    have hdrop : (bytes r ++ (entriesOf bytes t ++ rest)).drop size = entriesOf bytes t ++ rest := by
      rw [← hsize r, List.drop_left]
    obtain ⟨habove, hwf⟩ := List.pairwise_cons.1 hwf
    have ih := readEntries_entriesOf hcap hsize rest t (k + 1) hwf fun e he =>
      ⟨habove e he, (hrows e (by simp [he])).2⟩
    rw [hbytes, List.length_cons, readEntries]
    simp only [hindex, hone, htake, hdrop, hr, ih]
    rw [if_pos ⟨trivial, hlow, hk⟩]
    rfl

/-! ### The header -/

theorem readHeader_eq_none {bs : List Byte} : readHeader bs = none ↔ bs.length < 10 := by
  unfold readHeader
  split
  · simp
  · rename_i h
    simp only [true_iff]
    by_contra hlen
    rw [Nat.not_lt] at hlen
    match bs, hlen with
    | f :: l1 :: l0 :: c1 :: c0 :: g :: po :: pr :: pa :: z :: rest, _ => exact h _ _ _ _ _ _ _ _ _ _ rest rfl

/-- The header that a memory of at least ten bytes spells, by the numbers in its bytes (R200). -/
def headerAt (bs : List Byte) : ImageHeader :=
  { format := byteAt bs 0, length := 256 * byteAt bs 1 + byteAt bs 2, saveCount := 256 * byteAt bs 3 + byteAt bs 4
    general := byteAt bs 5, poll := byteAt bs 6, probe := byteAt bs 7, pair := byteAt bs 8, zone := byteAt bs 9 }

theorem readHeader_of_length {bs : List Byte} (h : 10 ≤ bs.length) : readHeader bs = some (headerAt bs) := by
  match bs, h with
  | f :: l1 :: l0 :: c1 :: c0 :: g :: po :: pr :: pa :: z :: rest, _ =>
    simp only [readHeader, natOf_eq, Option.some.injEq]
    rfl

/-- The header is wrong (R182, R200). -/
def headerFails (bs : List Byte) : Prop :=
  bs.length < 10 ∨ byteAt bs 0 ≠ 1 ∨ (headerAt bs).length < 21 ∨ 3253 < (headerAt bs).length ∨
  bs.length < (headerAt bs).length ∨ byteAt bs 5 ≠ 1 ∨ 96 < byteAt bs 6 ∨ 128 < byteAt bs 7 ∨ 64 < byteAt bs 8 ∨
  32 < byteAt bs 9 ∨ (headerAt bs).length ≠
    19 + 6 * byteAt bs 6 + 14 * byteAt bs 7 + 7 * byteAt bs 8 + 13 * byteAt bs 9 + 2

theorem headerAt_sound_iff {bs : List Byte} (h : 10 ≤ bs.length) :
    (headerAt bs).sound bs.length = true ↔ ¬ headerFails bs := by
  unfold ImageHeader.sound headerFails
  simp only [Bool.and_eq_true, decide_eq_true_eq]
  simp only [imageLength, Config.pollRows, Config.channels, Config.pairs, Config.zones]
  have hfields : (headerAt bs).format = byteAt bs 0 ∧ (headerAt bs).general = byteAt bs 5 ∧ (headerAt bs).poll = byteAt bs 6 ∧
      (headerAt bs).probe = byteAt bs 7 ∧ (headerAt bs).pair = byteAt bs 8 ∧ (headerAt bs).zone = byteAt bs 9 :=
    ⟨rfl, rfl, rfl, rfl, rfl, rfl⟩
  obtain ⟨h0, h5, h6, h7, h8, h9⟩ := hfields
  rw [h0, h5, h6, h7, h8, h9]
  simp only [not_or, not_not, Nat.not_lt, and_assoc, h, true_and]
  refine and_congr_right fun _ => and_congr_right fun _ => and_congr_right fun _ => and_congr_right fun _ =>
    and_congr_right fun hone => and_congr_right fun _ => and_congr_right fun _ => and_congr_right fun _ =>
    and_congr_right fun _ => ?_
  rw [hone]

/-! ### The sections of an image -/

/-- Bytes of the memory from a place on. -/
def span (bs : List Byte) (i n : Nat) : List Byte := (bs.drop i).take n

/-- An entry of a section of the memory is wrong (R182). -/
def entriesFail (bs : List Byte) (start size count capacity : Nat) (rowFits : List Byte → Bool) : Prop :=
  ∃ i < count,
    let place := start + i * (size + 2)
    byteAt bs place ≠ 1 ∨ capacity ≤ byteAt bs (place + 1) ∨
      (0 < i ∧ byteAt bs (place + 1) ≤ byteAt bs (place + 1 - (size + 2))) ∨ rowFits (span bs (place + 2) size) = false

theorem byteAt_take {bs : List Byte} {n i : Nat} (h : i < n) : byteAt (bs.take n) i = byteAt bs i := by
  simp [byteAt, h]

theorem span_take {bs : List Byte} {m i n : Nat} (h : i + n ≤ m) : span (bs.take m) i n = span bs i n := by
  rw [span, List.drop_take, List.take_take, Nat.min_eq_left (by omega), span]

/-- What the reading of a section that lies within the first `m` bytes of the memory comes to. -/
theorem readEntries_section {size cap : Nat} {ofBytes : List Byte → Option α} {bs : List Byte} {m start n : Nat}
    (hm : m ≤ bs.length) (hend : start + n * (size + 2) ≤ m) :
    (readEntries size cap ofBytes n 0 ((bs.take m).drop start) = none ↔
      entriesFail bs start size n cap fun b => (ofBytes b).isSome) ∧
    (∀ t rest, readEntries size cap ofBytes n 0 ((bs.take m).drop start) = some (t, rest) →
      rest = (bs.take m).drop (start + n * (size + 2)) ∧ t.length = n ∧
      ∀ i k r, t[i]? = some (k, r) →
        k = byteAt bs (start + 1 + i * (size + 2)) ∧ ofBytes (span bs (start + 2 + i * (size + 2)) size) = some r) := by
  obtain ⟨hnone, hsome⟩ := readEntries_spec size cap ofBytes n 0 ((bs.take m).drop start)
    (by rw [List.length_drop, List.length_take]; omega)
  have hplace : ∀ i, i < n → start + i * (size + 2) + (size + 2) ≤ m := fun i hi => by
    have : (i + 1) * (size + 2) ≤ n * (size + 2) := Nat.mul_le_mul_right _ hi
    rw [Nat.succ_mul] at this
    omega
  constructor
  · rw [hnone]
    refine exists_congr fun i => and_congr_right fun hi => ?_
    have hp := hplace i hi
    have hprev : 0 < i → start + (i - 1) * (size + 2) + 1 = start + i * (size + 2) + 1 - (size + 2) := fun h0 => by
      obtain ⟨j, rfl⟩ : ∃ j, i = j + 1 := ⟨i - 1, by omega⟩
      rw [Nat.add_sub_cancel, Nat.succ_mul]; omega
    have hrow : List.take size (List.drop (start + i * (size + 2) + 2) (bs.take m)) = span bs (start + i * (size + 2) + 2) size :=
      span_take (by omega)
    unfold entryFailsAt
    simp only [byteAt_drop, List.drop_drop, ← Nat.add_assoc]
    rw [byteAt_take (by omega), byteAt_take (by omega), hrow]
    have hlow : byteAt bs (start + i * (size + 2) + 1) <
        (if i = 0 then 0 else byteAt (bs.take m) (start + (i - 1) * (size + 2) + 1) + 1) ↔
        0 < i ∧ byteAt bs (start + i * (size + 2) + 1) ≤ byteAt bs (start + i * (size + 2) + 1 - (size + 2)) := by
      by_cases h0 : i = 0
      · simp [h0]
      · rw [if_neg h0, hprev (by omega), byteAt_take (by omega)]
        omega
    rw [hlow]
    simp only [Option.isSome_eq_false_iff, Option.isNone_iff_eq_none]
    exact or_congr_right or_left_comm
  · intro t rest h
    obtain ⟨hrest, hlen, hrows⟩ := hsome t rest h
    refine ⟨by rw [hrest, List.drop_drop], hlen, fun i k r hi => ?_⟩
    obtain ⟨hk, hr⟩ := hrows i k r hi
    have hin : i < n := by
      rw [← hlen]; exact (List.getElem?_eq_some_iff.1 hi).1
    have hp := hplace i hin
    rw [byteAt_drop, byteAt_take (by omega)] at hk
    rw [List.drop_drop] at hr
    have hrow : List.take size (List.drop (start + (i * (size + 2) + 2)) (bs.take m)) =
        span bs (start + (i * (size + 2) + 2)) size := span_take (by omega)
    rw [hrow] at hr
    refine ⟨by rw [hk]; congr 1; omega, ?_⟩
    rw [← hr]; congr 2; omega

end Sys2Proof.Machine

/-! SUPPORT. The judging of an image (R182), and the statement O21. -/

namespace Sys2Proof.Machine

variable {α : Type}

/-! ### The five tables of an image -/

/-- The rows of a table are those that stand in a section of the memory. -/
def RowsAt (bs : List Byte) (start size : Nat) (ofBytes : List Byte → Option α) (t : Keyed α) : Prop :=
  ∀ i k r, t[i]? = some (k, r) →
    k = byteAt bs (start + 1 + i * (size + 2)) ∧ ofBytes (span bs (start + 2 + i * (size + 2)) size) = some r

/-- A section either has an entry that fails, or is read as the rows that stand there. -/
theorem readEntries_section_cases {size cap : Nat} {ofBytes : List Byte → Option α} {bs : List Byte} {m start n next : Nat}
    (hm : m ≤ bs.length) (hnext : next = start + n * (size + 2)) (hend : next ≤ m) :
    (readEntries size cap ofBytes n 0 ((bs.take m).drop start) = none ∧
      entriesFail bs start size n cap fun b => (ofBytes b).isSome) ∨
    ∃ t, readEntries size cap ofBytes n 0 ((bs.take m).drop start) = some (t, (bs.take m).drop next) ∧
      (¬ entriesFail bs start size n cap fun b => (ofBytes b).isSome) ∧ t.length = n ∧ RowsAt bs start size ofBytes t := by
  subst hnext
  obtain ⟨hnone, hsome⟩ := readEntries_section (size := size) (cap := cap) (ofBytes := ofBytes) hm hend
  cases h : readEntries size cap ofBytes n 0 ((bs.take m).drop start) with
  | none => exact .inl ⟨rfl, hnone.1 h⟩
  | some p =>
    obtain ⟨t, rest⟩ := p
    obtain ⟨hrest, hlen, hrows⟩ := hsome t rest h
    refine .inr ⟨t, by rw [hrest], fun hf => ?_, hlen, hrows⟩
    rw [hnone.2 hf] at h; cases h

/-- An entry of the five sections of a memory is wrong. -/
def anyEntryFails (bs : List Byte) (poll probe pair zone : Nat) : Prop :=
  entriesFail bs 10 7 1 1 (fun b => (GeneralRow.ofBytes b).isSome) ∨
  entriesFail bs 19 4 poll 96 (fun b => (PollRow.ofBytes b).isSome) ∨
  entriesFail bs (19 + 6 * poll) 12 probe 128 (fun b => (ProbeRow.ofBytes b).isSome) ∨
  entriesFail bs (19 + 6 * poll + 14 * probe) 5 pair 64 (fun b => (PairRow.ofBytes b).isSome) ∨
  entriesFail bs (19 + 6 * poll + 14 * probe + 7 * pair) 11 zone 32 (fun b => (ZoneRow.ofBytes b).isSome)

/-- The tables are those that stand in the five sections of a memory. -/
structure TablesAt (bs : List Byte) (poll probe pair zone : Nat) (t : Tables) : Prop where
  general : GeneralRow.ofBytes (span bs 12 7) = some t.general
  counts : t.poll.length = poll ∧ t.probe.length = probe ∧ t.pair.length = pair ∧ t.zone.length = zone
  pollRows : RowsAt bs 19 4 PollRow.ofBytes t.poll
  probeRows : RowsAt bs (19 + 6 * poll) 12 ProbeRow.ofBytes t.probe
  pairRows : RowsAt bs (19 + 6 * poll + 14 * probe) 5 PairRow.ofBytes t.pair
  zoneRows : RowsAt bs (19 + 6 * poll + 14 * probe + 7 * pair) 11 ZoneRow.ofBytes t.zone

/-- The reading of the five tables fails exactly when an entry does, and otherwise gives the rows that stand there. -/
theorem readTables_cases {bs : List Byte} {m poll probe pair zone : Nat} (hm : m ≤ bs.length)
    (hend : 19 + 6 * poll + 14 * probe + 7 * pair + 13 * zone ≤ m) :
    (readTables poll probe pair zone ((bs.take m).drop 10) = none ∧ anyEntryFails bs poll probe pair zone) ∨
    ∃ t, readTables poll probe pair zone ((bs.take m).drop 10) = some t ∧ (¬ anyEntryFails bs poll probe pair zone) ∧
      TablesAt bs poll probe pair zone t := by
  unfold readTables
  rcases readEntries_section_cases (size := 7) (cap := 1) (ofBytes := GeneralRow.ofBytes) (start := 10) (n := 1) (next := 19)
    hm rfl (by omega) with ⟨e, hf⟩ | ⟨g, e, hgeneral, hlen, hg⟩ <;> rw [e]
  · exact .inl ⟨rfl, .inl hf⟩
  obtain ⟨⟨k, general⟩, rfl⟩ := List.length_eq_one_iff.1 hlen
  obtain ⟨_, hg⟩ := hg 0 k general rfl
  dsimp only
  rcases readEntries_section_cases (size := 4) (cap := 96) (ofBytes := PollRow.ofBytes) (start := 19) (n := poll)
    (next := 19 + 6 * poll) hm (by omega) (by omega) with ⟨e, hf⟩ | ⟨pollRows, e, hpoll, hlen1, hrows1⟩ <;>
    rw [show Config.pollRows = 96 from rfl, e]
  · exact .inl ⟨rfl, .inr (.inl hf)⟩
  dsimp only
  rcases readEntries_section_cases (size := 12) (cap := 128) (ofBytes := ProbeRow.ofBytes) (start := 19 + 6 * poll)
    (n := probe) (next := 19 + 6 * poll + 14 * probe) hm (by omega) (by omega) with
    ⟨e, hf⟩ | ⟨probeRows, e, hprobe, hlen2, hrows2⟩ <;> rw [show Config.channels = 128 from rfl, e]
  · exact .inl ⟨rfl, .inr (.inr (.inl hf))⟩
  dsimp only
  rcases readEntries_section_cases (size := 5) (cap := 64) (ofBytes := PairRow.ofBytes) (start := 19 + 6 * poll + 14 * probe)
    (n := pair) (next := 19 + 6 * poll + 14 * probe + 7 * pair) hm (by omega) (by omega) with
    ⟨e, hf⟩ | ⟨pairRows, e, hpair, hlen3, hrows3⟩ <;> rw [show Config.pairs = 64 from rfl, e]
  · exact .inl ⟨rfl, .inr (.inr (.inr (.inl hf)))⟩
  dsimp only
  rcases readEntries_section_cases (size := 11) (cap := 32) (ofBytes := ZoneRow.ofBytes)
    (start := 19 + 6 * poll + 14 * probe + 7 * pair) (n := zone)
    (next := 19 + 6 * poll + 14 * probe + 7 * pair + 13 * zone) hm (by omega) hend with
    ⟨e, hf⟩ | ⟨zoneRows, e, hzone, hlen4, hrows4⟩ <;> rw [show Config.zones = 32 from rfl, e]
  · exact .inl ⟨rfl, .inr (.inr (.inr (.inr hf)))⟩
  · exact .inr ⟨_, rfl, by rintro (h | h | h | h | h) <;> contradiction,
      ⟨hg, ⟨hlen1, hlen2, hlen3, hlen4⟩, hrows1, hrows2, hrows3, hrows4⟩⟩

/-- Tables that are read are sound. -/
theorem readTables_sound {poll probe pair zone : Nat} {bs : List Byte} {t : Tables}
    (h : readTables poll probe pair zone bs = some t) : t.sound := by
  unfold readTables at h
  split at h
  · rename_i k general bs1 hg
    split at h
    · cases h
    · rename_i pollRows bs2 hpoll
      split at h
      · cases h
      · rename_i probeRows bs3 hprobe
        split at h
        · cases h
        · rename_i pairRows bs4 hpair
          obtain ⟨⟨zoneRows, bs5⟩, hzone, rfl⟩ := Option.map_eq_some_iff.1 h
          have general_ok := (readEntries_sound (fun _ _ hr => (GeneralRow.ofBytes_eq_some.1 hr).1) _ _ _ _ _ hg).1.2
            (k, general) (by simp)
          exact ⟨(readEntries_sound (fun _ _ hr => (PollRow.ofBytes_eq_some.1 hr).1) _ _ _ _ _ hpoll).1,
            (readEntries_sound (fun _ _ hr => (ProbeRow.ofBytes_eq_some.1 hr).1) _ _ _ _ _ hprobe).1,
            (readEntries_sound (fun _ _ hr => (PairRow.ofBytes_eq_some.1 hr).1) _ _ _ _ _ hpair).1,
            (readEntries_sound (fun _ _ hr => (ZoneRow.ofBytes_eq_some.1 hr).1) _ _ _ _ _ hzone).1, general_ok.2⟩
  · cases h

/-! ### The judging -/

theorem judge_sound {bs : List Byte} {n : Nat} {t : Tables} (h : judge bs = some (n, t)) : t.sound := by
  unfold judge at h
  split at h
  · cases h
  · split at h
    · dsimp only at h
      split at h
      · obtain ⟨u, hu, e⟩ := Option.map_eq_some_iff.1 h
        cases e
        exact readTables_sound hu
      · cases h
    · cases h

/-- The check bytes at a place of the memory are not those of the bytes before it (R182, R193). -/
def checkFails (bs : List Byte) (length : Nat) : Prop :=
  256 * byteAt bs (length - 2) + byteAt bs (length - 1) ≠ (check16 (span bs 0 (length - 2))).toNat

/-- Two bytes of the memory spell a word. -/
theorem span_eq_wordBytes {bs : List Byte} {i : Nat} (h : i + 2 ≤ bs.length) (w : Half) :
    (bs.drop i).take 2 = wordBytes w ↔ 256 * byteAt bs i + byteAt bs (i + 1) = w.toNat := by
  have h0 : byteAt bs i = byteAt (bs.drop i) 0 := by rw [byteAt_drop, Nat.add_zero]
  have h1 : byteAt bs (i + 1) = byteAt (bs.drop i) 1 := by rw [byteAt_drop]
  rw [h0, h1]
  have hlen : 2 ≤ (bs.drop i).length := by rw [List.length_drop]; omega
  match bs.drop i, hlen with
  | x :: y :: rest, _ =>
    have hx : byteAt (x :: y :: rest) 0 = x.toNat := rfl
    have hy : byteAt (x :: y :: rest) 1 = y.toNat := rfl
    have htake : (x :: y :: rest).take 2 = [x, y] := rfl
    rw [hx, hy, htake]
    constructor
    · intro e
      rw [← natOf_eq]
      rw [wordBytes] at e
      cases e
      rw [natOf, wordOf_bytes]
    · intro e
      have hw : wordOf x y = w := by apply BitVec.eq_of_toNat_eq; rw [← e]; exact natOf_eq x y
      rw [← hw, wordBytes_wordOf]

/-- The judging (R182): the bytes are not whole exactly when the header, the check or an entry is wrong, and otherwise the save
count and the rows that stand there are given. -/
theorem judge_cases (bs : List Byte) :
    (judge bs = none ∧ (headerFails bs ∨ checkFails bs (headerAt bs).length ∨
      anyEntryFails bs (byteAt bs 6) (byteAt bs 7) (byteAt bs 8) (byteAt bs 9))) ∨
    ∃ t, judge bs = some (256 * byteAt bs 3 + byteAt bs 4, t) ∧
      (¬ (headerFails bs ∨ checkFails bs (headerAt bs).length ∨
        anyEntryFails bs (byteAt bs 6) (byteAt bs 7) (byteAt bs 8) (byteAt bs 9))) ∧
      TablesAt bs (byteAt bs 6) (byteAt bs 7) (byteAt bs 8) (byteAt bs 9) t := by
  unfold judge
  by_cases hshort : bs.length < 10
  · rw [readHeader_eq_none.2 hshort]
    exact .inl ⟨rfl, .inl (.inl hshort)⟩
  rw [readHeader_of_length (by omega)]
  dsimp only
  by_cases hheader : headerFails bs
  · rw [if_neg (mt (headerAt_sound_iff (by omega)).1 (not_not.2 hheader))]
    exact .inl ⟨rfl, .inl hheader⟩
  rw [if_pos ((headerAt_sound_iff (by omega)).2 hheader)]
  have hfits := hheader
  simp only [headerFails, not_or, not_not, Nat.not_lt] at hfits
  obtain ⟨_, _, hleast, hmost, hmemory, _, _, _, _, _, hlength⟩ := hfits
  have hcheck := span_eq_wordBytes (bs := bs) (i := (headerAt bs).length - 2) (by omega)
    (check16 (bs.take ((headerAt bs).length - 2)))
  rw [show (headerAt bs).length - 2 + 1 = (headerAt bs).length - 1 by omega] at hcheck
  by_cases hc : checkFails bs (headerAt bs).length
  · rw [if_neg (mt hcheck.1 hc)]
    exact .inl ⟨rfl, .inr (.inl hc)⟩
  rw [if_pos (hcheck.2 (not_not.1 hc))]
  rcases readTables_cases (bs := bs) (m := (headerAt bs).length - 2) (poll := byteAt bs 6) (probe := byteAt bs 7)
    (pair := byteAt bs 8) (zone := byteAt bs 9) (by omega) (by omega) with ⟨e, hf⟩ | ⟨t, e, hf, ht⟩
  · exact .inl ⟨by change Option.map _ (readTables (byteAt bs 6) _ _ _ _) = _; rw [show (headerAt bs).probe = byteAt bs 7 from rfl,
      show (headerAt bs).pair = byteAt bs 8 from rfl, show (headerAt bs).zone = byteAt bs 9 from rfl, e]; rfl, .inr (.inr hf)⟩
  · refine .inr ⟨t, ?_, ?_, ht⟩
    · change Option.map _ (readTables (byteAt bs 6) _ _ _ _) = _
      rw [show (headerAt bs).probe = byteAt bs 7 from rfl,
        show (headerAt bs).pair = byteAt bs 8 from rfl, show (headerAt bs).zone = byteAt bs 9 from rfl, e]
      rfl
    · rintro (h | h | h) <;> contradiction

/-! ### The image of sound tables -/

/-- The five tables are read back from the rows of their image. -/
theorem readTables_imageRows {t : Tables} (h : t.sound) :
    readTables t.poll.length t.probe.length t.pair.length t.zone.length (imageRows t) = some t := by
  obtain ⟨⟨hpoll, hpollRows⟩, ⟨hprobe, hprobeRows⟩, ⟨hpair, hpairRows⟩, ⟨hzone, hzoneRows⟩, hgeneral⟩ := h
  have hg : GeneralRow.ofBytes t.general.bytes = some t.general := GeneralRow.ofBytes_eq_some.2 ⟨hgeneral, rfl⟩
  have general := fun rest => readEntries_entriesOf (size := 7) (cap := 1) (ofBytes := GeneralRow.ofBytes)
    (bytes := GeneralRow.bytes) (by omega) GeneralRow.bytes_length rest [(0, t.general)] 0 (by simp [Keyed.wf])
    (by simp [hg])
  have poll := fun rest => readEntries_entriesOf (ofBytes := PollRow.ofBytes) (bytes := PollRow.bytes)
    (by decide : Config.pollRows ≤ 256) PollRow.bytes_length rest t.poll 0 hpoll
    fun e he => ⟨Nat.zero_le _, (hpollRows e he).1, PollRow.ofBytes_eq_some.2 ⟨(hpollRows e he).2, .inl rfl⟩⟩
  have probe := fun rest => readEntries_entriesOf (ofBytes := ProbeRow.ofBytes) (bytes := ProbeRow.bytes)
    (by decide : Config.channels ≤ 256) ProbeRow.bytes_length rest t.probe 0 hprobe
    fun e he => ⟨Nat.zero_le _, (hprobeRows e he).1, ProbeRow.ofBytes_eq_some.2 ⟨(hprobeRows e he).2, rfl⟩⟩
  have pair := fun rest => readEntries_entriesOf (ofBytes := PairRow.ofBytes) (bytes := PairRow.bytes)
    (by decide : Config.pairs ≤ 256) PairRow.bytes_length rest t.pair 0 hpair
    fun e he => ⟨Nat.zero_le _, (hpairRows e he).1, PairRow.ofBytes_eq_some.2 ⟨(hpairRows e he).2, rfl⟩⟩
  have zone := readEntries_entriesOf (ofBytes := ZoneRow.ofBytes) (bytes := ZoneRow.bytes)
    (by decide : Config.zones ≤ 256) ZoneRow.bytes_length [] t.zone 0 hzone
    fun e he => ⟨Nat.zero_le _, (hzoneRows e he).1, ZoneRow.ofBytes_eq_some.2 ⟨(hzoneRows e he).2, rfl⟩⟩
  rw [List.append_nil] at zone
  have hrows : imageRows t = entriesOf GeneralRow.bytes [(0, t.general)] ++ (entriesOf PollRow.bytes t.poll ++
      (entriesOf ProbeRow.bytes t.probe ++ (entriesOf PairRow.bytes t.pair ++ entriesOf ZoneRow.bytes t.zone))) := by
    simp [imageRows, entriesOf]
  have hone : ([(0, t.general)] : Keyed GeneralRow).length = 1 := rfl
  rw [hone] at general
  rw [hrows, readTables, general]
  dsimp only
  rw [poll]
  dsimp only
  rw [probe]
  dsimp only
  rw [pair]
  dsimp only
  rw [zone]
  rfl

/-- The image of sound tables is judged whole, and gives back its save count and tables. -/
theorem judge_storeImage {t : Tables} {n : Nat} (h : t.sound) (hn : n < 65536) : judge (storeImage n t) = some (n, t) := by
  obtain ⟨hpoll, hprobe, hpair, hzone⟩ := h.counts
  have hsize := h.imageSize_le
  have hread : readHeader (storeImage n t) = some
      { format := 1, length := t.imageSize, saveCount := n, general := 1, poll := t.poll.length, probe := t.probe.length
        pair := t.pair.length, zone := t.zone.length } := by
    have e : readHeader (storeImage n t) = some
      { format := (byte 1).toNat
        length := natOf ((BitVec.ofNat 16 (imageLength 1 t.poll.length t.probe.length t.pair.length t.zone.length)).extractLsb' 8 8)
          ((BitVec.ofNat 16 (imageLength 1 t.poll.length t.probe.length t.pair.length t.zone.length)).extractLsb' 0 8)
        saveCount := natOf ((BitVec.ofNat 16 n).extractLsb' 8 8) ((BitVec.ofNat 16 n).extractLsb' 0 8)
        general := (byte 1).toNat, poll := (byte t.poll.length).toNat, probe := (byte t.probe.length).toNat
        pair := (byte t.pair.length).toNat, zone := (byte t.zone.length).toNat } := rfl
    rw [e, imageLength_eq, natOf_natBytes (by omega), natOf_natBytes hn, byte_toNat_of_lt (by omega), byte_toNat_of_lt (by omega),
      byte_toNat_of_lt (by omega), byte_toNat_of_lt (by omega), byte_toNat_of_lt (by omega)]
  have hcovered : (imageHeader n t ++ imageRows t).length = t.imageSize - 2 := by
    have := imageRows_length t
    rw [List.length_append, show (imageHeader n t).length = 10 from rfl]; omega
  have htake : (storeImage n t).take (t.imageSize - 2) = imageHeader n t ++ imageRows t := by
    rw [← hcovered, storeImage, List.take_left]
  have hdrop : (storeImage n t).drop (t.imageSize - 2) = wordBytes (check16 (imageHeader n t ++ imageRows t)) := by
    rw [← hcovered, storeImage, List.drop_left]
  have hrows : (imageHeader n t ++ imageRows t).drop 10 = imageRows t := rfl
  have hcheck : ∀ w : Half, (wordBytes w).take 2 = wordBytes w := fun _ => rfl
  have hleast : 21 ≤ t.imageSize := by unfold Tables.imageSize; omega
  unfold judge
  rw [hread]
  dsimp only
  rw [if_pos ?_]
  · rw [htake, hdrop, hcheck, if_pos rfl, hrows, readTables_imageRows h]
    rfl
  · simp [ImageHeader.sound, storeImage_length, Config.pollRows, Config.channels, Config.pairs, Config.zones,
      imageLength_eq, hpoll, hprobe, hpair, hzone, hsize, hleast]

/-- Settles O21: the header, the check and the five sections are judged one after the other (`judge_cases`), and the image of
sound tables passes each (`judge_storeImage`). -/
theorem imageRoundTrip : Obligations.ImageRoundTrip := by
  refine ⟨fun t n h _ hn => judge_storeImage h (by omega), fun bs n t h => judge_sound h,
    fun t n => ⟨?_, storeImage_length n t, fun h => h.imageSize_le⟩, fun bs => ⟨?_, fun n t h => ?_⟩⟩
  · have hcovered : imageHeader n t ++ imageRows t =
        [1] ++ [byte (t.imageSize / 256), byte (t.imageSize % 256)] ++ [byte (n / 256), byte (n % 256)]
          ++ [1, byte t.poll.length, byte t.probe.length, byte t.pair.length, byte t.zone.length]
          ++ ([1, 0] ++ t.general.bytes) ++ t.poll.flatMap (fun e => [1, byte e.1] ++ e.2.bytes)
          ++ t.probe.flatMap (fun e => [1, byte e.1] ++ e.2.bytes) ++ t.pair.flatMap (fun e => [1, byte e.1] ++ e.2.bytes)
          ++ t.zone.flatMap (fun e => [1, byte e.1] ++ e.2.bytes) := by
      rw [imageHeader, imageLength_eq, natBytes_eq, natBytes_eq]
      simp only [imageRows, entriesOf, putEntry, List.append_assoc]
      rfl
    rw [storeImage, wordBytes_eq, hcovered]
    rfl
  · rcases judge_cases bs with ⟨e, hf⟩ | ⟨t, e, hf, _⟩
    · exact iff_of_true e hf
    · exact iff_of_false (by rw [e]; simp) hf
  · rcases judge_cases bs with ⟨e, _⟩ | ⟨t', e, _, ht⟩
    · rw [e] at h; cases h
    · rw [e] at h
      cases h
      obtain ⟨hgeneral, ⟨h1, h2, h3, h4⟩, hpoll, hprobe, hpair, hzone⟩ := ht
      exact ⟨rfl, hgeneral, h1, h2, h3, h4, hpoll, hprobe, hpair, hzone⟩

end Sys2Proof.Machine

/-! SUPPORT. The checks that the rows of the Table Store pass (R131, R141) over all commands, and the statement O5. -/

namespace Sys2Proof.Machine

/-! ### Sound rows of one table -/

theorem rowsSound_nil {α : Type} (capacity : Nat) (ok : α → Bool) : rowsSound capacity ok ([] : Keyed α) := by
  simp [rowsSound, Keyed.wf]

theorem rowsSound_put {α : Type} {capacity : Nat} {ok : α → Bool} {t : Keyed α} (h : rowsSound capacity ok t) {i : Nat} {r : α}
    (hi : i < capacity) (hr : ok r = true) : rowsSound capacity ok (t.put i r) := by
  obtain ⟨hwf, hrows⟩ := h
  refine ⟨Keyed.wf_put hwf i r, fun e he => ?_⟩
  have hget := Keyed.get_of_mem (Keyed.wf_put hwf i r) he
  rw [Keyed.get_put] at hget
  split at hget
  · rename_i hie
    cases hget
    exact ⟨hie ▸ hi, hr⟩
  · exact hrows e (Keyed.mem_of_get hget)

theorem rowsSound_del {α : Type} {capacity : Nat} {ok : α → Bool} {t : Keyed α} (h : rowsSound capacity ok t) (i : Nat) :
    rowsSound capacity ok (t.del i) :=
  ⟨Keyed.wf_del h.1 i, fun e he => h.2 e (List.mem_of_mem_filter he)⟩

/-- An entry that applies leaves sound rows (R134, R135). -/
theorem TableRows.applyEntry_sound {rows rows' : TableRows} {e : List Byte} (h : rows.applyEntry e = some rows')
    (hs : rows.sound = true) : rows'.sound = true := by
  unfold TableRows.applyEntry at h
  split at h
  · split at h
    · unfold TableRows.putBytes at h
      split at h
      · cases h
      · rename_i hcap
        rw [Nat.not_le] at hcap
        cases rows <;> simp only [Option.map_eq_some_iff] at h <;> obtain ⟨r, hr, rfl⟩ := h
        · exact decide_eq_true (rowsSound_put (of_decide_eq_true hs) hcap (PollRow.ofBytes_eq_some.1 hr).1)
        · exact decide_eq_true (rowsSound_put (of_decide_eq_true hs) hcap (ProbeRow.ofBytes_eq_some.1 hr).1)
        · exact decide_eq_true (rowsSound_put (of_decide_eq_true hs) hcap (PairRow.ofBytes_eq_some.1 hr).1)
        · exact decide_eq_true (rowsSound_put (of_decide_eq_true hs) hcap (ZoneRow.ofBytes_eq_some.1 hr).1)
        · exact (GeneralRow.ofBytes_eq_some.1 hr).1
    · split at h
      · unfold TableRows.delete at h
        split at h
        · cases h
        · cases rows <;> cases h
          · exact decide_eq_true (rowsSound_del (of_decide_eq_true hs) _)
          · exact decide_eq_true (rowsSound_del (of_decide_eq_true hs) _)
          · exact decide_eq_true (rowsSound_del (of_decide_eq_true hs) _)
          · exact decide_eq_true (rowsSound_del (of_decide_eq_true hs) _)
      · cases h
  · cases h

theorem TableId.emptyRows_sound (t : TableId) : t.emptyRows.sound = true := by cases t <;> decide

/-! ### Sound tables and staged copies -/

theorem Tables.empty_installable : Tables.empty.installable := by decide

theorem Tables.sound.copy {t : Tables} (h : t.sound) (u : TableId) : (t.copy u).sound = true := by
  obtain ⟨hpoll, hprobe, hpair, hzone, hgeneral⟩ := h
  cases u
  · exact decide_eq_true hpoll
  · exact decide_eq_true hprobe
  · exact decide_eq_true hpair
  · exact decide_eq_true hzone
  · exact hgeneral

theorem Staged.rows?_map {α β : Type} (c : Staged α) (f : α → β) : (c.map f).rows? = c.rows?.map f := by cases c <;> rfl

theorem StagedTables.sound_iff (c : StagedTables) :
    c.sound ↔ ∀ t rows, (c.copy t).rows? = some rows → rows.sound = true := by
  constructor
  · rintro ⟨hpoll, hprobe, hpair, hzone, hgeneral⟩ t rows h
    cases t <;> simp only [StagedTables.copy, Staged.rows?_map, Option.map_eq_some_iff] at h <;> obtain ⟨r, hr, rfl⟩ := h
    · exact decide_eq_true (hpoll r hr)
    · exact decide_eq_true (hprobe r hr)
    · exact decide_eq_true (hpair r hr)
    · exact decide_eq_true (hzone r hr)
    · exact hgeneral r hr
  · intro h
    refine ⟨fun r hr => ?_, fun r hr => ?_, fun r hr => ?_, fun r hr => ?_, fun r hr => ?_⟩
    · exact of_decide_eq_true (h .poll (.poll r) (by simp [StagedTables.copy, Staged.rows?_map, Option.mem_def.1 hr]))
    · exact of_decide_eq_true (h .probe (.probe r) (by simp [StagedTables.copy, Staged.rows?_map, Option.mem_def.1 hr]))
    · exact of_decide_eq_true (h .pair (.pair r) (by simp [StagedTables.copy, Staged.rows?_map, Option.mem_def.1 hr]))
    · exact of_decide_eq_true (h .zone (.zone r) (by simp [StagedTables.copy, Staged.rows?_map, Option.mem_def.1 hr]))
    · exact h .general (.general r) (by simp [StagedTables.copy, Staged.rows?_map, Option.mem_def.1 hr])

theorem StagedTables.sound_empty : ({} : StagedTables).sound := by
  rw [StagedTables.sound_iff]
  intro t rows h
  rw [StagedTables.copy_empty] at h; cases h

theorem StagedTables.sound_setReady {c : StagedTables} (h : c.sound) {rows : TableRows} (hr : rows.sound = true) :
    (c.setReady rows).sound := by
  rw [StagedTables.sound_iff] at h ⊢
  intro t rows' ht
  rw [StagedTables.copy_setReady] at ht
  split at ht
  · cases ht; exact hr
  · exact h t rows' ht

theorem StagedTables.sound_setNone {c : StagedTables} (h : c.sound) (u : TableId) : (c.setNone u).sound := by
  rw [StagedTables.sound_iff] at h ⊢
  intro t rows' ht
  rw [StagedTables.copy_setNone] at ht
  split at ht
  · cases ht
  · exact h t rows' ht

theorem StagedTables.sound_setOpened {c : StagedTables} (h : c.sound) (u : TableId) : (c.setOpened u).sound := by
  rw [StagedTables.sound_iff] at h ⊢
  intro t rows' ht
  rw [StagedTables.copy_setOpened] at ht
  split at ht
  · cases ht
  · exact h t rows' ht

/-- Rows of a READY copy, or else the active rows, keep what both keep. -/
theorem Staged.getD_law {α : Type} {P : α → Prop} {c : Staged α} {x : α} (hc : ∀ r ∈ c.rows?, P r) (hx : P x) :
    P (c.rows?.getD x) := by
  cases h : c.rows? with
  | none => exact hx
  | some r => exact hc r h

/-- The candidate set is sound (R141). -/
theorem candidate_sound {tb : TableStore} (hactive : tb.active.sound) (hstaged : tb.staged.sound) : tb.candidate.sound := by
  obtain ⟨a1, a2, a3, a4, a5⟩ := hactive
  obtain ⟨c1, c2, c3, c4, c5⟩ := hstaged
  exact ⟨Staged.getD_law c1 a1, Staged.getD_law c2 a2, Staged.getD_law c3 a3, Staged.getD_law c4 a4,
    Staged.getD_law (P := fun r => GeneralRow.wellFormed r = true) c5 a5⟩

/-- The tables that a start delivers pass every check (R187). -/
theorem storeFinding_installable (image : StoredImage) : (storeFinding image).2.2.installable := by
  unfold storeFinding
  split
  · exact Tables.empty_installable
  · exact Tables.empty_installable
  · split
    · exact Tables.empty_installable
    · rename_i hjudge
      split
      · rename_i hcheck; exact ⟨judge_sound hjudge, hcheck⟩
      · exact Tables.empty_installable

/-! ### The Table Store over all commands -/

theorem TablesSound.congr {s t : State} (h : TablesSound s) (htb : t.tb = s.tb) : TablesSound t := by
  unfold TablesSound; rw [htb]; exact h

/-- Taking the pending commit keeps the Table Store sound. -/
theorem TablesSound.takes {s t : State} (h : TablesSound s) (k : TakesPending s.tb t.tb) : TablesSound t := by
  rcases k with e | ⟨c, hc, e⟩
  · exact h.congr e
  · obtain ⟨_, _, hload, hpending⟩ := h
    unfold TablesSound
    rw [e]
    exact ⟨hpending c hc, StagedTables.sound_empty, hload, fun c hc => by cases hc⟩

theorem tablesSound_enterStart (reason : StartReason) (s : State) : TablesSound (enterStart reason s) :=
  ⟨storeFinding_installable s.cs.image, StagedTables.sound_empty, fun l hl => (by cases hl), fun c hc => (by cases hc)⟩

theorem TablesSound.abandon {s : State} (h : TablesSound s) : TablesSound (abandonLoad s) := by
  obtain ⟨hactive, hstaged, hload, hpending⟩ := h
  have hab : ∀ tb', s.tb.abandon = tb' → tb'.active = s.tb.active ∧ tb'.pendingCommit = s.tb.pendingCommit ∧
      tb'.staged.sound ∧ (∀ l ∈ tb'.load, l.working.sound = true ∧ ∀ p ∈ l.prior, p.sound = true) := by
    rintro tb' rfl
    unfold TableStore.abandon
    split
    · exact ⟨rfl, rfl, hstaged, hload⟩
    · rename_i l hl
      refine ⟨rfl, rfl, ?_, fun l hl => by cases hl⟩
      cases hp : l.prior with
      | none => exact StagedTables.sound_setNone hstaged _
      | some rows => exact StagedTables.sound_setReady hstaged ((hload l hl).2 rows hp)
  obtain ⟨e1, e2, h1, h2⟩ := hab _ rfl
  unfold TablesSound abandonLoad
  rw [State.setTb_tb, e1, e2]
  exact ⟨hactive, h1, h2, hpending⟩

/-- The working contents a load sequence starts from are sound (R133). -/
theorem startRows_sound {tb : TableStore} (hactive : tb.active.sound) (hstaged : tb.staged.sound) (t : TableId) (m : LoadMethod) :
    (tb.startRows t m).sound = true := by
  cases m with
  | replace => exact t.emptyRows_sound
  | patch =>
    exact Staged.getD_law (P := fun r => TableRows.sound r = true)
      (fun r hr => (StagedTables.sound_iff _).1 hstaged t r hr) (hactive.copy t)

theorem TablesSound.served {r : Option Request} {s t : State} (k : Served r s t) (h : TablesSound s) : TablesSound t := by
  have hall := h
  obtain ⟨hactive, hstaged, hload, hpending⟩ := hall
  cases k with
  | summaryOpen => exact h.congr (takeBatch_only 0 (s.setZm _)).keeps.2.2.2.2.2.1
  | summaryNext => exact h.congr (takeBatch_only s.zm.summary.nextRecord s).keeps.2.2.2.2.2.1
  | summaryClose => exact h.congr (closeSummary_only s).keeps.2.2.2.2.2.1
  | loadOpen _ u m =>
    obtain ⟨hactive, hstaged, _, hpending⟩ := h.abandon
    refine ⟨hactive, StagedTables.sound_setOpened hstaged u, fun l hl => ?_, hpending⟩
    cases hl
    exact ⟨startRows_sound hactive.1 hstaged u m, fun p hp => (StagedTables.sound_iff _).1 hstaged u p hp⟩
  | loadRows _ l entries rows hl happly =>
    refine ⟨hactive, hstaged, fun l' hl' => ?_, hpending⟩
    cases hl'
    obtain ⟨hworking, hprior⟩ := hload l hl
    exact ⟨applyEntries_law (P := fun x => TableRows.sound x = true) TableRows.applyEntry_sound _ _ _ _ happly hworking, hprior⟩
  | loadClose _ l hl =>
    exact ⟨hactive, StagedTables.sound_setReady hstaged (hload l hl).1, fun l hl => (by cases hl), hpending⟩
  | loadAbandon => exact h.abandon
  | commitTaken _ _ _ _ hcheck =>
    exact ⟨⟨candidate_sound hactive.1 hstaged, hcheck⟩, StagedTables.sound_empty, hload, fun c hc => (by cases hc)⟩
  | commitPending _ _ _ hcheck =>
    refine ⟨hactive, hstaged, hload, fun c hc => ?_⟩
    cases hc
    exact ⟨candidate_sound hactive.1 hstaged, hcheck⟩
  | _ => exact h

/-- Every command keeps the Table Store sound. -/
theorem TablesSound.exec {c : Instr} {s t : State} (h : TablesSound s) (he : exec c s = .next t) : TablesSound t := by
  cases exec_effect he with
  | powerStart => exact tablesSound_enterStart _ _
  | resetStart => exact tablesSound_enterStart _ _
  | restart => exact tablesSound_enterStart _ _
  | startUp =>
    rcases endStart_cases s with e | e <;> rw [e]
    · exact h
    · exact TablesSound.takes (s := s) h (openCycle_step _).tables
  | written _ _ result => unfold writeEnds; split <;> exact h
  | timer => exact h.takes (timerExpires_step s).tables
  | frameStarts => exact h.takes (frameStarts_step s).tables
  | frameSent => exact h.takes (frameSent_step s).tables
  | line _ _ c f hc => exact h.takes (whileListening_step hc s).tables
  | loadTimeout => exact h.abandon
  | lineBreak => exact h.abandon.congr (breakSummary_only (abandonLoad s)).keeps.2.2.2.2.2.1
  | request _ _ _ c a code r p =>
    have hserved : TablesSound (respond a code (judgeRequest r p s)) :=
      TablesSound.served (t := (judgeRequest r p s).state) (judgeRequest_served r p s) h
    exact hserved.takes (follow_step r _).tables
  | _ => exact h

/-- Settles O5: rows enter the Table Store by entries that apply, by an image that is judged whole, and by COMMIT's cross checks. -/
theorem tablesStaySound : Obligations.TablesStaySound :=
  fun _ _ => step_of_exec (fun _ h => h) (fun _ _ h => h) fun _ _ _ h => h.exec

end Sys2Proof.Machine

/-! SUPPORT. What the five cross checks decide (R141), with what installable tables therefore keep; the COMMIT request (R140, R142);
and the statement O58. -/

namespace Sys2Proof.Machine

/-! ### Searches for the lowest index -/

/-- A search finds the lowest index that meets a condition, or none when no index does. -/
structure Search (b : Nat → Prop) (o : Option Nat) : Prop where
  none : o = none ↔ ∀ i, ¬ b i
  some : ∀ i, o = some i ↔ b i ∧ ∀ j, j < i → ¬ b j

theorem Search.congr {b b' : Nat → Prop} {o : Option Nat} (h : Search b o) (hb : ∀ i, b i ↔ b' i) : Search b' o := by
  obtain rfl : b = b' := funext fun i => propext (hb i)
  exact h

/-- The number of the first search that finds an index, with that index. -/
def firstFailing : Nat → List (Option Nat) → Option (Nat × Nat)
  | _, [] => none
  | k, o :: os =>
    match o with
    | some i => some (k, i)
    | none => firstFailing (k + 1) os

/-- Searches made one after the other find the first that fails, with the lowest index that breaks it. -/
theorem firstFailing_spec {b : Nat → Nat → Prop} : ∀ (os : List (Option Nat)) (k : Nat),
    (∀ m o, os[m]? = some o → Search (b (k + m)) o) →
    (firstFailing k os = none ↔ ∀ m < os.length, ∀ i, ¬ b (k + m) i) ∧
    ∀ check i, firstFailing k os = some (check, i) ↔
      ∃ m < os.length, check = k + m ∧ b check i ∧ (∀ j < i, ¬ b check j) ∧ ∀ m' < m, ∀ j, ¬ b (k + m') j
  | [], k, _ => by simp [firstFailing]
  | o :: os, k, h => by
    have h0 : Search (b k) o := h 0 o rfl
    cases o with
    | some i0 =>
      obtain ⟨hb, hlow⟩ := (h0.some i0).1 rfl
      refine ⟨iff_of_false (by simp [firstFailing]) fun hall => hall 0 (by simp) i0 hb, fun check i => ?_⟩
      simp only [firstFailing, Option.some.injEq, Prod.mk.injEq]
      constructor
      · rintro ⟨rfl, rfl⟩
        exact ⟨0, by simp, rfl, hb, hlow, by simp⟩
      · rintro ⟨m, _, hm, hbi, hli, hbefore⟩
        rcases Nat.eq_zero_or_pos m with rfl | hpos
        · obtain rfl : check = k := hm
          refine ⟨rfl, ?_⟩
          have : some i0 = some i := (h0.some i).2 ⟨hbi, hli⟩
          exact Option.some.inj this
        · exact absurd hb (hbefore 0 hpos i0)
    | none =>
      have hnone := h0.none.1 rfl
      obtain ⟨ihn, ihs⟩ := firstFailing_spec os (k + 1) fun m o ho => by
        rw [Nat.add_right_comm]; exact h (m + 1) o ho
      have e : firstFailing k (none :: os) = firstFailing (k + 1) os := rfl
      rw [e]
      constructor
      · rw [ihn]
        constructor
        · rintro hall (_ | m) hm i
          · exact hnone i
          · have := hall m (by simpa using hm) i
            rwa [Nat.add_right_comm] at this
        · intro hall m hm i
          have := hall (m + 1) (by simpa using hm) i
          rwa [← Nat.add_assoc, Nat.add_right_comm] at this
      · intro check i
        rw [ihs]
        constructor
        · rintro ⟨m, hm, rfl, hbi, hli, hbefore⟩
          refine ⟨m + 1, by simpa using hm, by omega, hbi, hli, ?_⟩
          rintro (_ | m') hm' j
          · exact hnone j
          · have := hbefore m' (by omega) j
            rwa [Nat.add_right_comm] at this
        · rintro ⟨m, hm, hcheck, hbi, hli, hbefore⟩
          rcases m with _ | m
          · rw [Nat.add_zero] at hcheck
            exact absurd (hcheck ▸ hbi) (hnone i)
          · refine ⟨m, by simpa using hm, by omega, hbi, hli, fun m' hm' j => ?_⟩
            have := hbefore (m' + 1) (by omega) j
            rwa [← Nat.add_assoc, Nat.add_right_comm] at this

/-! ### The five cross checks -/

/-- A POLL row at a position polls a node. -/
def Tables.polls (c : Tables) (position node : Nat) : Prop :=
  ∃ timeout accept, c.poll.get position = some (.poll node timeout accept)

/-- A channel has a PROBE row of a kind. -/
def Tables.kindAt (c : Tables) (channel : Nat) (kind : ProbeKind) : Prop :=
  ∃ row, c.probe.get channel = some row ∧ row.kind = kind

/-- An index breaks a cross check (R141). -/
def Tables.breaks (c : Tables) (check i : Nat) : Prop :=
  (check = 1 ∧ ∃ node, c.polls i node ∧ ∃ j, j < i ∧ c.polls j node) ∨
  (check = 2 ∧ ∃ r, c.probe.get i = some r ∧ ∃ j q, j < i ∧ c.probe.get j = some q ∧ q.node = r.node ∧ q.slot = r.slot) ∨
  (check = 3 ∧ ∃ r, c.probe.get i = some r ∧ ∀ j, ¬ c.polls j r.node) ∨
  (check = 4 ∧ ∃ r, c.pair.get i = some r ∧
    ¬ (c.kindAt r.airT .airTemp ∧ c.kindAt r.airRh .airRh ∧ c.kindAt r.surface .surfaceTemp)) ∨
  (check = 5 ∧ ∃ r, c.pair.get i = some r ∧ c.zone.get r.zone = none)

theorem PollRow.node?_eq_some {r : PollRow} {n : Nat} : r.node? = some n ↔ ∃ timeout accept, r = .poll n timeout accept := by
  cases r <;> simp [PollRow.node?, eq_comm]

theorem Tables.polls_iff {c : Tables} (hw : Keyed.wf c.poll) (i n : Nat) :
    c.polls i n ↔ Keyed.get (nodePositions c.poll) i = some n := by
  rw [(nodePositions_spec hw).2]
  simp only [Tables.polls, Option.bind_eq_some_iff, PollRow.node?_eq_some]
  constructor
  · rintro ⟨timeout, accept, h⟩; exact ⟨_, h, timeout, accept, rfl⟩
  · rintro ⟨_, h, timeout, accept, rfl⟩; exact ⟨timeout, accept, h⟩

theorem Tables.mem_pollNodes_iff {c : Tables} (hw : Keyed.wf c.poll) (n : Nat) : n ∈ pollNodes c.poll ↔ ∃ i, c.polls i n := by
  rw [mem_pollNodes hw]
  refine exists_congr fun i => ?_
  rw [Tables.polls_iff hw, (nodePositions_spec hw).2]

/-- A repeated key is found at its second index. -/
theorem firstRepeat_search {κ : Type} [DecidableEq κ] {t : Keyed κ} (hw : Keyed.wf t) :
    Search (fun i => ∃ x, t.get i = some x ∧ ∃ j, j < i ∧ t.get j = some x) (firstRepeat [] t) := by
  obtain ⟨hnone, hsome⟩ := firstRepeat_spec hw []
  constructor
  · rw [hnone]
    exact ⟨fun h i ⟨x, hx, j, hj, hxj⟩ => (h i x hx).2 j hj hxj,
      fun h i x hx => ⟨by simp, fun j hj hxj => h i ⟨x, hx, j, hj, hxj⟩⟩⟩
  · intro i
    rw [hsome i]
    constructor
    · rintro ⟨⟨x, hx, hrepeat⟩, hlow⟩
      refine ⟨⟨x, hx, hrepeat.resolve_left (by simp)⟩, ?_⟩
      rintro k hk ⟨y, hy, j, hj, hyj⟩
      exact (hlow k hk y hy).2 j hj hyj
    · rintro ⟨⟨x, hx, hrepeat⟩, hlow⟩
      exact ⟨⟨x, hx, .inr hrepeat⟩, fun k hk y hy => ⟨by simp, fun j hj hyj => hlow k hk ⟨y, hy, j, hj, hyj⟩⟩⟩

/-- A row that breaks a condition is found at the lowest index. -/
theorem firstBreaking_search {α : Type} (ok : α → Bool) {t : Keyed α} (hw : Keyed.wf t) :
    Search (fun i => ∃ r, t.get i = some r ∧ ok r = false) (firstBreaking ok t) := by
  obtain ⟨hnone, hsome⟩ := firstBreaking_spec ok hw
  constructor
  · rw [hnone]
    exact ⟨fun h i ⟨r, hr, hf⟩ => (by rw [h i r hr] at hf; cases hf),
      fun h i r hr => by_contra fun hf => h i ⟨r, hr, by simpa using hf⟩⟩
  · intro i
    rw [hsome i]
    refine and_congr_right fun _ => forall_congr' fun j => forall_congr' fun _ => ?_
    exact ⟨fun h ⟨r, hr, hf⟩ => (by rw [h r hr] at hf; cases hf),
      fun h q hq => by_contra fun hf => h ⟨q, hq, by simpa using hf⟩⟩

/-- The keys of the PROBE rows that check 2 compares: node and slot. -/
def probeSlots (rows : Keyed ProbeRow) : Keyed (Nat × Nat) := rows.mapRows fun _ r => (r.node, r.slot)

theorem hasKind_iff {c : Tables} {channel : Nat} {k : ProbeKind} : hasKind c.probe channel k = true ↔ c.kindAt channel k := by
  unfold hasKind Tables.kindAt
  cases c.probe.get channel <;> simp

theorem crossCheck_eq (c : Tables) : crossCheck c = firstFailing 1
    [firstRepeat [] (nodePositions c.poll), firstRepeat [] (probeSlots c.probe),
      firstBreaking (fun r => decide (r.node ∈ pollNodes c.poll)) c.probe, firstBreaking (pairChannelsFit c.probe) c.pair,
      firstBreaking (fun r => (c.zone.get r.zone).isSome) c.pair] := by
  unfold crossCheck
  have hslots : (c.probe.map fun e => (e.1, (e.2.node, e.2.slot))) = probeSlots c.probe := rfl
  rw [hslots]
  cases firstRepeat [] (nodePositions c.poll) with
  | some i => rfl
  | none =>
    cases firstRepeat [] (probeSlots c.probe) with
    | some i => rfl
    | none =>
      cases firstBreaking (fun r => decide (r.node ∈ pollNodes c.poll)) c.probe with
      | some i => rfl
      | none =>
        cases firstBreaking (pairChannelsFit c.probe) c.pair with
        | some i => rfl
        | none => cases firstBreaking (fun r => (c.zone.get r.zone).isSome) c.pair <;> rfl

/-- Each of the five checks searches for the lowest index that breaks it. -/
theorem crossCheck_searches {c : Tables} (hpoll : Keyed.wf c.poll) (hprobe : Keyed.wf c.probe) (hpair : Keyed.wf c.pair) :
    Search (c.breaks 1) (firstRepeat [] (nodePositions c.poll)) ∧ Search (c.breaks 2) (firstRepeat [] (probeSlots c.probe)) ∧
    Search (c.breaks 3) (firstBreaking (fun r => decide (r.node ∈ pollNodes c.poll)) c.probe) ∧
    Search (c.breaks 4) (firstBreaking (pairChannelsFit c.probe) c.pair) ∧
    Search (c.breaks 5) (firstBreaking (fun r => (c.zone.get r.zone).isSome) c.pair) := by
  refine ⟨(firstRepeat_search (nodePositions_spec hpoll).1).congr fun i => ?_,
    (firstRepeat_search (Keyed.wf_mapRows hprobe _)).congr fun i => ?_,
    (firstBreaking_search _ hprobe).congr fun i => ?_, (firstBreaking_search _ hpair).congr fun i => ?_,
    (firstBreaking_search _ hpair).congr fun i => ?_⟩
  · simp [Tables.breaks, Tables.polls_iff hpoll]
  · simp only [Tables.breaks, Keyed.get_mapRows, Option.map_eq_some_iff]
    constructor
    · rintro ⟨_, ⟨r, hr, rfl⟩, j, hj, q, hq, he⟩
      simp only [Prod.mk.injEq] at he
      exact .inr (.inl ⟨trivial, r, hr, j, q, hj, hq, he⟩)
    · rintro (⟨h, _⟩ | ⟨_, r, hr, j, q, hj, hq, he1, he2⟩ | ⟨h, _⟩ | ⟨h, _⟩ | ⟨h, _⟩)
      · cases h
      · exact ⟨_, ⟨r, hr, rfl⟩, j, hj, q, hq, by rw [he1, he2]⟩
      · cases h
      · cases h
      · cases h
  · simp [Tables.breaks, Tables.mem_pollNodes_iff hpoll]
  · simp [Tables.breaks, ← Bool.not_eq_true, pairChannelsFit, Bool.and_eq_true, hasKind_iff, and_assoc]
  · simp [Tables.breaks]

/-- The cross checks pass exactly when no index breaks any, and otherwise give the first that fails with the lowest index. -/
theorem crossCheck_spec {c : Tables} (hpoll : Keyed.wf c.poll) (hprobe : Keyed.wf c.probe) (hpair : Keyed.wf c.pair) :
    (crossCheck c = none ↔ ∀ check i, ¬ c.breaks check i) ∧
    ∀ check i, crossCheck c = some (check, i) ↔
      c.breaks check i ∧ (∀ j, j < i → ¬ c.breaks check j) ∧ ∀ k j, k < check → ¬ c.breaks k j := by
  have hrange : ∀ check i, c.breaks check i → ∃ m < 5, check = 1 + m := by
    rintro check i (⟨rfl, _⟩ | ⟨rfl, _⟩ | ⟨rfl, _⟩ | ⟨rfl, _⟩ | ⟨rfl, _⟩)
    · exact ⟨0, by omega, rfl⟩
    · exact ⟨1, by omega, rfl⟩
    · exact ⟨2, by omega, rfl⟩
    · exact ⟨3, by omega, rfl⟩
    · exact ⟨4, by omega, rfl⟩
  obtain ⟨s1, s2, s3, s4, s5⟩ := crossCheck_searches hpoll hprobe hpair
  obtain ⟨hnone, hsome⟩ := firstFailing_spec (b := c.breaks)
    [firstRepeat [] (nodePositions c.poll), firstRepeat [] (probeSlots c.probe),
      firstBreaking (fun r => decide (r.node ∈ pollNodes c.poll)) c.probe, firstBreaking (pairChannelsFit c.probe) c.pair,
      firstBreaking (fun r => (c.zone.get r.zone).isSome) c.pair] 1 (by
    rintro (_ | _ | _ | _ | _ | m) o ho
    · cases ho; exact s1
    · cases ho; exact s2
    · cases ho; exact s3
    · cases ho; exact s4
    · cases ho; exact s5
    · simp at ho)
  rw [crossCheck_eq]
  constructor
  · rw [hnone]
    constructor
    · intro h check i hb
      obtain ⟨m, hm, rfl⟩ := hrange check i hb
      exact h m hm i hb
    · exact fun h m _ i => h (1 + m) i
  · intro check i
    rw [hsome]
    constructor
    · rintro ⟨m, _, rfl, hb, hlow, hbefore⟩
      refine ⟨hb, hlow, fun k j hk hbk => ?_⟩
      obtain ⟨m', _, rfl⟩ := hrange k j hbk
      exact hbefore m' (by omega) j hbk
    · rintro ⟨hb, hlow, hbefore⟩
      obtain ⟨m, hm, rfl⟩ := hrange check i hb
      exact ⟨m, hm, rfl, hb, hlow, fun m' hm' j => hbefore (1 + m') j (by omega)⟩

/-! ### What installable tables keep -/

theorem Tables.installable.not_breaks {c : Tables} (h : c.installable) (check i : Nat) : ¬ c.breaks check i := by
  obtain ⟨⟨⟨hpoll, _⟩, ⟨hprobe, _⟩, ⟨hpair, _⟩, _⟩, hcheck⟩ := h
  exact (crossCheck_spec hpoll hprobe hpair).1.1 hcheck check i

/-- A node's slot belongs to one channel at most (check 2). -/
theorem Tables.installable.channel_unique {c : Tables} (h : c.installable) {i j : Nat} {r q : ProbeRow}
    (hr : c.probe.get i = some r) (hq : c.probe.get j = some q) (hnode : r.node = q.node) (hslot : r.slot = q.slot) : i = j := by
  rcases Nat.lt_trichotomy i j with hlt | heq | hlt
  · exact absurd (.inr (.inl ⟨rfl, q, hq, i, r, hlt, hr, hnode, hslot⟩)) (h.not_breaks 2 j)
  · exact heq
  · exact absurd (.inr (.inl ⟨rfl, r, hr, j, q, hlt, hq, hnode.symm, hslot.symm⟩)) (h.not_breaks 2 i)

/-- The zone of a pair has a row (check 5). -/
theorem Tables.installable.zone_of_pair {c : Tables} (h : c.installable) {p : Nat} {r : PairRow} (hr : c.pair.get p = some r) :
    ∃ z, c.zone.get r.zone = some z := by
  cases hz : c.zone.get r.zone with
  | some z => exact ⟨z, rfl⟩
  | none => exact absurd (.inr (.inr (.inr (.inr ⟨rfl, r, hr, hz⟩)))) (h.not_breaks 5 p)

/-- The channels of a pair have rows of their kinds (check 4). -/
theorem Tables.installable.kinds_of_pair {c : Tables} (h : c.installable) {p : Nat} {r : PairRow} (hr : c.pair.get p = some r) :
    c.kindAt r.airT .airTemp ∧ c.kindAt r.airRh .airRh ∧ c.kindAt r.surface .surfaceTemp := by
  by_contra hk
  exact h.not_breaks 4 p (.inr (.inr (.inr (.inl ⟨rfl, r, hr, hk⟩))))

/-! ### COMMIT -/

theorem isReady_copy (c : StagedTables) :
    (c.copy .poll).isReady = c.poll.isReady ∧ (c.copy .probe).isReady = c.probe.isReady ∧
    (c.copy .pair).isReady = c.pair.isReady ∧ (c.copy .zone).isReady = c.zone.isReady ∧
    (c.copy .general).isReady = c.general.isReady := by
  simp [StagedTables.copy, Staged.isReady, Staged.rows?_map]

theorem bitAt_eq_zero {k : Nat} {b : Bool} : bitAt k b = 0 ↔ b = false := by cases b <;> simp [bitAt]

/-- No table is READY exactly when the READY set is empty. -/
theorem readySet_eq_zero (c : StagedTables) : c.readySet = 0 ↔ ∀ t : TableId, (c.copy t).isReady = false := by
  obtain ⟨h1, h2, h3, h4, h5⟩ := isReady_copy c
  have hsum : c.readySet = 0 ↔ c.poll.isReady = false ∧ c.probe.isReady = false ∧ c.pair.isReady = false ∧
      c.zone.isReady = false ∧ c.general.isReady = false := by
    simp only [StagedTables.readySet, Nat.add_eq_zero_iff, bitAt_eq_zero, and_assoc]
  rw [hsum]
  constructor
  · rintro ⟨k1, k2, k3, k4, k5⟩ t
    cases t
    · exact h1.trans k1
    · exact h2.trans k2
    · exact h3.trans k3
    · exact h4.trans k4
    · exact h5.trans k5
  · intro h
    exact ⟨h1.symm.trans (h _), h2.symm.trans (h _), h3.symm.trans (h _), h4.symm.trans (h _), h5.symm.trans (h _)⟩

/-- A request that is heard leaves its owner's answer fixed as the response. -/
theorem exec_answered {r : Request} {s t : State} {a : Byte} (h : Heard s a) (p payload : List Byte) (status : Status)
    (fit : r.lengthFits p.length = true) (hp : p.length ≤ 240) (hne : r ≠ .mode)
    (hserve : r.serve p s = { status := status, payload := payload, state := t }) :
    exec (r.command a p) s = .next (answeredWith a r.code status payload t) := by
  rw [exec_request r h p fit hp hne, hserve]; rfl

/-- Settles O58: the checks by `crossCheck_spec`, and COMMIT's cases one after the other. -/
theorem commitDecides : Obligations.CommitDecides := by
  refine ⟨fun c hpoll hprobe hpair => crossCheck_spec hpoll hprobe hpair, fun s a h => ?_⟩
  have commit : ∀ (status : Status) (payload : List Byte) (t : State),
      serveCommit [] s = { status := status, payload := payload, state := t } →
      exec (.commit a []) s = .next (answeredWith a 0x54 status payload t) := fun status payload t hserve =>
    exec_answered (r := .commit) h [] payload status rfl (by simp) (by simp) hserve
  intro ready candidate
  refine ⟨fun hp => commit _ _ _ ?_, fun hp => ⟨fun hbusy => commit _ _ _ ?_, fun hsave hload =>
    ⟨fun hready => commit _ _ _ ?_, fun hready => ⟨fun check index hc => commit _ _ _ ?_,
      fun hc hidle => commit _ _ _ ?_, fun hc hidle => commit _ _ _ ?_⟩⟩⟩⟩
  · rw [serveCommit, if_pos (Option.isSome_iff_ne_none.2 hp)]; rfl
  · have hb : s.cs.saveWrite.isSome = true ∨ s.tb.load.isSome = true :=
      hbusy.imp Option.isSome_iff_ne_none.2 Option.isSome_iff_ne_none.2
    rw [serveCommit, if_neg (by simp [hp]), if_pos hb]; rfl
  · rw [serveCommit, if_neg (by simp [hp]), if_neg (by simp [hsave, hload]), if_pos ((readySet_eq_zero _).2 hready)]; rfl
  all_goals
    have hr : s.tb.staged.readySet ≠ 0 := fun e => by
      obtain ⟨t, ht⟩ := hready
      rw [(readySet_eq_zero _).1 e t] at ht; cases ht
    have hcand : s.tb.candidate = candidate := rfl
    simp only [serveCommit, hp, hsave, hload, hr, hcand, hc, Option.isSome_none, Bool.false_eq_true, or_self, if_false]
  · rfl
  · rw [if_pos hidle]; rfl
  · rw [if_neg hidle]; rfl

end Sys2Proof.Machine

/-! SUPPORT. The step and its totality, reset, power and start-up, and the end of a SAVE's write: the statements O1 to O4 and
O44 to O47. -/

namespace Sys2Proof.Machine

/-! ### The step -/

/-- Settles O1: by the two cases of a step. -/
theorem stepRunsTheFrontCommand : Obligations.StepRunsTheFrontCommand := by
  refine ⟨fun c rest s h => ?_, fun s h => ?_⟩ <;> unfold step <;> rw [h]

/-- Every command answers a next state (notes/assumptions/2.md). -/
theorem exec_next (c : Instr) (s : State) : ∃ t, exec c s = .next t := by
  cases c <;> exact ⟨_, rfl⟩

theorem ZonesOnly.pending {s t : State} (h : ZonesOnly s t) : t.pending = s.pending := by rw [h]; rfl

theorem Served.pending {r : Option Request} {s t : State} (h : Served r s t) : t.pending = s.pending := by
  cases h with
  | summaryOpen => exact (takeBatch_only 0 (s.setZm _)).pending
  | summaryNext => exact (takeBatch_only _ s).pending
  | summaryClose => exact (closeSummary_only s).pending
  | _ => rfl

theorem CycleStep.pending {s t : State} (h : CycleStep s t) : t.pending = s.pending := by
  obtain ⟨_, _, _, hpending⟩ := h.only
  exact hpending

/-- No command touches the queue (notes/assumptions/3.md). -/
theorem Effect.pending {c : Instr} {s t : State} (h : Effect c s t) : t.pending = s.pending := by
  cases h with
  | startUp =>
    rcases endStart_cases s with e | e <;> rw [e]
    · rfl
    · exact (openCycle_step _).pending
  | written => unfold writeEnds; split <;> rfl
  | timer => exact (timerExpires_step s).pending
  | frameStarts => rcases frameStarts_cases s with e | ⟨_, _, _, e⟩ <;> rw [e]; rfl
  | frameSent => rcases frameSent_cases s with e | ⟨_, _, _, e⟩ <;> rw [e]; rfl
  | line _ _ _ _ hc => exact (whileListening_step hc s).pending
  | lineBreak => exact (breakSummary_only (abandonLoad s)).pending
  | request _ _ _ _ _ _ r p => exact (follow_step r _).pending.trans (judgeRequest_served r p s).pending
  | _ => rfl

/-- Settles O2: each command answers, and each kind of effect leaves the queue. -/
theorem everyCommandCompletes : Obligations.EveryCommandCompletes := by
  intro c s
  obtain ⟨t, h⟩ := exec_next c s
  exact ⟨t, h, (exec_effect h).pending⟩

/-! ### Reset -/

/-- Settles O3: the fields of the state after reset. -/
theorem resetValues : Obligations.ResetValues := by
  unfold Obligations.ResetValues
  refine ⟨rfl, rfl, rfl, rfl, rfl, rfl, rfl, rfl, rfl, rfl, rfl, rfl, rfl, rfl, rfl, rfl, rfl, fun t => ?_, rfl, rfl, rfl, rfl,
    rfl, rfl, rfl, rfl, rfl, rfl, rfl, rfl, rfl⟩
  cases t <;> rfl

/-- Settles O4: each invariant is a decidable fact about the state after reset. -/
theorem resetIsSound : Obligations.ResetIsSound := by
  refine ⟨?_, ?_, ?_, ?_, ?_, ?_, ?_, ?_, ?_, ?_, ?_, ?_, ?_, ?_⟩
  all_goals decide

/-! ### Power, reset and restart -/

/-- Settles O44: the three commands, and the five findings in the store. -/
theorem entryToStart : Obligations.EntryToStart := by
  intro s
  refine ⟨fun h => ?_, fun h => ?_, fun h => ?_, fun h => ?_, fun h => ?_, fun hlive h1 h2 h3 h4 => ?_, fun h => ?_,
    fun h => ?_, fun h => ?_, fun bs h hj => ?_, fun bs n t h hj hc => ?_, fun bs n t h hj hc => ?_⟩
  · simp [exec, execPowerOn, cutShort, enterStart, h]
  · simp [exec, execPowerOn, cutShort, h]; rfl
  · simp [exec, execResetRelease, enterStart, h]
  · simp [exec, execResetRelease, h]; rfl
  · simp [exec, execResetRelease, h]
  · have hdue : restartDue s = true := by simp [restartDue, h1, h2, h3, h4]
    simp [exec, execRestartTaken, event_live hlive, hdue, enterStart]
  · have hdue : restartDue s = false := by
      rcases h with h | h | h | h <;> simp [restartDue, h]
      exact fun _ _ _ => Option.isSome_iff_ne_none.2 h
    simp [exec, execRestartTaken, event, hdue]
  all_goals simp [storeFinding, *]

/-- Settles O45: a part that is not live takes no event. -/
theorem resetAndPowerLoss : Obligations.ResetAndPowerLoss := by
  refine fun s => ⟨rfl, rfl, fun c hlive hc => ?_⟩
  have idle : ∀ f, event f s = .next s := fun f => by rw [event, hlive]; rfl
  cases c with
  | powerOn | resetAssert | resetRelease | powerLoss => simp at hc
  | _ => exact idle _

/-! ### SAVE -/

/-- Settles O47: the request's two cases, and the end of a write with its two results. -/
theorem saveAndItsWrite : Obligations.SaveAndItsWrite := by
  intro s a
  have save : ∀ (status : Status) (payload : List Byte) (t : State), Heard s a →
      serveSave [] s = { status := status, payload := payload, state := t } →
      exec (.save a []) s = .next (answeredWith a 0x05 status payload t) := fun status payload t h hserve =>
    exec_answered (r := .save) h [] payload status rfl (by simp) (by simp) hserve
  refine ⟨fun h hbusy => save _ _ _ h ?_, fun h hp hw => save _ _ _ h ?_, fun image bs result hlive hw hr => ?_,
    fun result hw => ?_⟩
  · rw [serveSave, if_pos (hbusy.imp Option.isSome_iff_ne_none.2 Option.isSome_iff_ne_none.2)]; rfl
  · have hn : satSucc 65535 s.cs.saveCount = min 65535 (s.cs.saveCount + 1) := by unfold satSucc; split <;> omega
    rw [serveSave, if_neg (by simp [hp, hw]), hn]; rfl
  · have hbytes : writtenBytes image result = bs := by
      rcases hr with ⟨rfl, rfl⟩ | rfl <;> rfl
    simp [exec, execSaveWriteEnd, event_live hlive, writeEnds, hw, hbytes]
  · have hkept : writeEnds result s = s := by simp [writeEnds, hw]
    simp [exec, execSaveWriteEnd, event, hkept]

/-! ### The end of START -/

theorem Keyed.get_foldl_put {α : Type} (f : Nat → α) (l : List Nat) (t : Keyed α) (n : Nat) :
    (l.foldl (fun t n => t.put n (f n)) t).get n = if n ∈ l then some (f n) else t.get n := by
  induction l generalizing t with
  | nil => simp
  | cons m l ih =>
    rw [List.foldl_cons, ih, Keyed.get_put]
    by_cases hl : n ∈ l
    · simp [hl]
    · by_cases hm : n = m
      · simp [hm]
      · simp [hl, hm, Ne.symm hm]

/-- The Node State list holds one record for each node of a POLL row (R17). -/
theorem nodeList_get (rows : Keyed PollRow) (f : Nat → NodeRecord) (n : Nat) :
    (nodeList rows f).get n = if n ∈ pollNodes rows then some (f n) else none := by
  unfold nodeList
  rw [Keyed.get_foldl_put, Keyed.get_nil]

/-- The state at the end of START, in the mode it enters (R188). -/
def started (m : Mode) (s : State) : State :=
  (((buildBlocks s).setTi { (buildBlocks s).ti with receiversOn := true }).setUi { s.ui with receiver := .waitIdle }).setMc
    { s.mc with mode := m }

theorem endStart_eq (s : State) : endStart s =
    if s.tb.active.general.autoSurvey = true ∧ s.tb.active.poll ≠ [] then openCycle (started .survey s)
    else started .idle s := rfl

/-- Settles O46: the state that the blocks have built, and what the mode's choice makes of it. -/
theorem startUpEnds : Obligations.StartUpEnds := by
  intro s
  have ends : s.live = true → s.mc.mode = .start → exec .startUpEnd s = .next (endStart s) := fun hlive hmode => by
    rw [exec, execStartUpEnd, event_live hlive, if_pos hmode]
  refine ⟨fun hlive hmode hidle => ?_, fun hlive hmode hauto hpoll => ?_, fun hmode => ?_, nodeList_get _ _⟩
  · have h : ¬ (s.tb.active.general.autoSurvey = true ∧ s.tb.active.poll ≠ []) := by
      rintro ⟨h1, h2⟩
      rcases hidle with h | h
      · exact absurd (h1.symm.trans h) (by simp)
      · exact h2 h
    rw [ends hlive hmode, endStart_eq, if_neg h]; rfl
  · rw [ends hlive hmode, endStart_eq, if_pos ⟨hauto, hpoll⟩]; rfl
  · simp [exec, execStartUpEnd, event, hmode]

end Sys2Proof.Machine

/-! SUPPORT. Refused requests, the classes and the risk state machine, an evaluation, a recompute, and the node's held block: the
statements O28, O35 to O38 and O42. -/

namespace Sys2Proof.Machine

/-! ### Refused requests (R170) -/

/-- What an owner decides: it accepts, it refuses and leaves the part as it was, or it tells of a break once (R123, R124). -/
inductive Decided (s : State) : Answer → Prop
  | accepted (p : List Byte) (t : State) : Decided s (accept p t)
  | refused (status : Status) (p : List Byte) : Decided s (refuseWith status p s)
  | brokenTold (h : s.zm.summary.broken = true) :
      Decided s (refuse .broken (s.setZm { s.zm with summary := { s.zm.summary with broken := false } }))

theorem Decided.refuse {s : State} (status : Status) : Decided s (refuse status s) := .refused status []

theorem summaryNotOpen_decided (s : State) : Decided s (summaryNotOpen s) := by
  unfold summaryNotOpen
  split
  · exact .brokenTold ‹_›
  · exact .refuse _

theorem serve_decided (r : Request) (p : List Byte) (s : State) : Decided s (r.serve p s) := by
  cases r with
  | status | counters | ident | restart | forceList | takeAlerts => exact .accepted _ _
  | mode => simp only [Request.serve, serveMode]; (repeat' split) <;> constructor
  | save => simp only [Request.serve, serveSave]; split <;> constructor
  | lineReport => simp only [Request.serve, serveLineReport]; (repeat' split) <;> constructor
  | skip => simp only [Request.serve, serveSkip]; (repeat' split) <;> constructor
  | readReadings => simp only [Request.serve, serveReadReadings]; (repeat' split) <;> constructor
  | forceSet => simp only [Request.serve, serveForceSet]; (repeat' split) <;> constructor
  | forceClear => simp only [Request.serve, serveForceClear]; (repeat' split) <;> constructor
  | readPairs => simp only [Request.serve, serveReadPairs]; (repeat' split) <;> constructor
  | summaryOpen => simp only [Request.serve, serveSummaryOpen]; split <;> constructor
  | summaryNext =>
    simp only [Request.serve, serveSummaryNext]
    split
    · exact .accepted _ _
    · exact summaryNotOpen_decided s
  | summaryClose =>
    simp only [Request.serve, serveSummaryClose]
    split
    · exact .accepted _ _
    · exact summaryNotOpen_decided s
  | loadOpen => simp only [Request.serve, serveLoadOpen]; (repeat' split) <;> constructor
  | loadRows => simp only [Request.serve, serveLoadRows]; (repeat' split) <;> constructor
  | loadClose => simp only [Request.serve, serveLoadClose]; split <;> constructor
  | loadAbandon => simp only [Request.serve, serveLoadAbandon]; split <;> constructor
  | commit => simp only [Request.serve, serveCommit]; (repeat' split) <;> constructor
  | readTable => simp only [Request.serve, serveReadTable]; (repeat' split) <;> constructor
  | relaySend => simp only [Request.serve, serveRelaySend]; (repeat' split) <;> constructor
  | relayCollect => simp only [Request.serve, serveRelayCollect]; (repeat' split) <;> constructor

/-- Settles O28: by what an owner can decide. -/
theorem refusalsChangeNothing : Obligations.RefusalsChangeNothing := by
  intro r p s hstatus
  have decided : Decided s (judgeRequest r p s) := by
    unfold judgeRequest
    split
    · exact .refuse _
    · split
      · exact serve_decided _ p s
      · exact .refuse _
  generalize judgeRequest r p s = ans at decided hstatus
  cases decided with
  | accepted p t => exact absurd rfl hstatus
  | refused status p => exact .inl rfl
  | brokenTold h => exact .inr ⟨rfl, h, rfl⟩

/-! ### Classes (R94, R95) -/

theorem ZoneRow.ordered {z : ZoneRow} (h : z.wellFormed = true) : z.wetAt < z.nearAt ∧ z.nearAt < z.watchAt :=
  have ⟨_, hwet, hnear, _⟩ := ZoneRow.wellFormed_iff.1 h
  ⟨hwet, hnear⟩

section
variable {z : ZoneRow} {m : Int} {mp : Option Int}

theorem classify_eq_wet (raise : Int) : classify z raise m mp = .wet ↔ m ≤ z.wetAt + raise := by
  unfold classify; (repeat' split) <;> simp_all

theorem near_le_classify (h : z.wetAt < z.nearAt) (raise : Int) :
    Level.near.rank ≤ (classify z raise m mp).rank ↔ m ≤ z.nearAt + raise := by
  unfold classify
  (repeat' split) <;> simp only [Level.rank] <;> omega

theorem watch_le_classify (h : z.wetAt < z.nearAt) (h' : z.nearAt < z.watchAt) (raise : Int) :
    Level.watch.rank ≤ (classify z raise m mp).rank ↔ m ≤ z.watchAt + raise ∨ ∃ p ∈ mp, p ≤ z.nearAt := by
  unfold classify
  cases mp <;> (repeat' split) <;> simp_all [Level.rank] <;> omega

/-- A smaller margin and higher thresholds give no less severe a class. -/
theorem classify_rank_mono {raise raise' m' : Int} (hr : raise ≤ raise') (hm : m' ≤ m) :
    (classify z raise m mp).rank ≤ (classify z raise' m' mp).rank := by
  unfold classify
  (repeat' split) <;> simp only [Level.rank] <;> omega

end

/-- Settles O35: by where each class begins. -/
theorem classesAndHysteresis : Obligations.ClassesAndHysteresis := by
  intro z m mp hz
  obtain ⟨hwet, hnear⟩ := hz |> ZoneRow.ordered
  refine ⟨?_, ?_, ?_, classify_eq_wet _, near_le_classify hwet _, watch_le_classify hwet hnear _, ?_, fun h => ?_, fun m' hm => ?_, ?_⟩
  · simpa using classify_eq_wet (z := z) (m := m) (mp := mp) 0
  · simpa using near_le_classify (m := m) (mp := mp) hwet 0
  · simpa using watch_le_classify (m := m) (mp := mp) hwet hnear 0
  · exact classify_rank_mono (by omega) (Int.le_refl m)
  · rw [h]; rfl
  · exact classify_rank_mono (Int.le_refl 0) hm
  · unfold trendFlag classify
    cases mp <;> (repeat' split) <;> simp_all <;> omega

/-! ### The risk state machine (R96 to R99) -/

section
variable {z : ZoneRow} {l : Level} {m : Int} {mp : Option Int}

theorem riskStep_rise (h : l.rank < (classify z 0 m mp).rank) (rise fall : Nat) :
    riskStep z (.judged l) rise fall m mp =
      if z.riseCount ≤ rise + 1 then (classify z 0 m mp, 0, 0) else (l, rise + 1, 0) := by
  simp only [riskStep, if_pos h]

theorem riskStep_fall (h : (classify z z.hyst m mp).rank < l.rank) (rise fall : Nat) :
    riskStep z (.judged l) rise fall m mp =
      if z.fallCount ≤ fall + 1 then (classify z z.hyst m mp, 0, 0) else (l, 0, fall + 1) := by
  have hle : (classify z 0 m mp).rank ≤ (classify z z.hyst m mp).rank := classify_rank_mono (by omega) (Int.le_refl m)
  simp only [riskStep]
  rw [if_neg (by omega), if_pos (by omega), if_pos h]

theorem riskStep_stays (h : classify z 0 m mp = l ∨
      ((classify z 0 m mp).rank < l.rank ∧ l.rank ≤ (classify z z.hyst m mp).rank)) (rise fall : Nat) :
    riskStep z (.judged l) rise fall m mp = (l, 0, 0) := by
  simp only [riskStep]
  rcases h with rfl | ⟨hbelow, hheld⟩
  · rw [if_neg (by omega), if_neg (by omega)]
  · rw [if_neg (by omega), if_pos hbelow, if_neg (by omega)]

end

/-- A run of rising evaluations that is too short only counts (R97). -/
theorem riskRun_rising {z : ZoneRow} {l : Level} (run : List (Int × Option Int)) (n : Nat)
    (h : ∀ e ∈ run, l.rank < (classify z 0 e.1 e.2).rank) (hn : n + run.length < z.riseCount) :
    run.foldl (fun p e => riskStep z (.judged p.1) p.2.1 p.2.2 e.1 e.2) (l, n, 0) = (l, n + run.length, 0) := by
  induction run generalizing n with
  | nil => rfl
  | cons e run ih =>
    simp only [List.length_cons] at hn
    rw [List.foldl_cons, riskStep_rise (h e (by simp)), if_neg (by dsimp only; omega),
      ih (n + 1) (fun e he => h e (List.mem_cons_of_mem _ he)) (by omega), List.length_cons]
    congr 2; omega

/-- A run of falling evaluations that is too short only counts (R98). -/
theorem riskRun_falling {z : ZoneRow} {l : Level} (run : List (Int × Option Int)) (n : Nat)
    (h : ∀ e ∈ run, (classify z z.hyst e.1 e.2).rank < l.rank) (hn : n + run.length < z.fallCount) :
    run.foldl (fun p e => riskStep z (.judged p.1) p.2.1 p.2.2 e.1 e.2) (l, 0, n) = (l, 0, n + run.length) := by
  induction run generalizing n with
  | nil => rfl
  | cons e run ih =>
    simp only [List.length_cons] at hn
    rw [List.foldl_cons, riskStep_fall (h e (by simp)), if_neg (by dsimp only; omega),
      ih (n + 1) (fun e he => h e (List.mem_cons_of_mem _ he)) (by omega), List.length_cons]
    congr 2; omega

theorem riskRun_append (z : ZoneRow) (l : Level) (run : List (Int × Option Int)) (last : Int × Option Int) :
    riskRun z l (run ++ [last]) =
      riskStep z (.judged (riskRun z l run).1) (riskRun z l run).2.1 (riskRun z l run).2.2 last.1 last.2 := by
  simp [riskRun]

/-- Settles O36: the step's cases, and a run by the run before its last evaluation. -/
theorem runsCompleteAMove : Obligations.RunsCompleteAMove := by
  intro z _
  refine ⟨fun _ _ _ _ _ => rfl, fun l run last h => ?_, fun l run last h => ?_, fun l rise fall m mp h => ?_,
    fun l rise fall m mp h => ?_, fun l rise fall m mp h => riskStep_stays h rise fall⟩
  · have before : run.length < z.riseCount → riskRun z l run = (l, run.length, 0) := fun hn => by
      simpa [riskRun] using riskRun_rising run 0 (fun e he => h e (by simp [he])) (by omega)
    constructor <;> intro hn <;> rw [riskRun_append, before (by omega), riskStep_rise (h last (by simp))]
    · exact if_neg (by dsimp only; omega)
    · exact if_pos (by dsimp only; omega)
  · have before : run.length < z.fallCount → riskRun z l run = (l, 0, run.length) := fun hn => by
      simpa [riskRun] using riskRun_falling run 0 (fun e he => h e (by simp [he])) (by omega)
    constructor <;> intro hn <;> rw [riskRun_append, before (by omega), riskStep_fall (h last (by simp))]
    · exact if_neg (by dsimp only; omega)
    · exact if_pos (by dsimp only; omega)
  · rw [riskStep_rise h]
    exact ⟨fun hn => if_neg (by omega), fun hn => if_pos hn⟩
  · rw [riskStep_fall h]
    exact ⟨fun hn => if_neg (by omega), fun hn => if_pos hn⟩

/-! ### An evaluation (R91 to R101) -/

theorem Quality.usable_iff_reason {q : Quality} : q.usable = true ↔ q.reason? = Option.none := by
  cases q <;> simp [Quality.usable, Quality.reason?]

theorem Quality.usable_iff {q : Quality} : q.usable = true ↔ q = .good ∨ q = .clamped ∨ q = .forced := by
  cases q <;> simp [Quality.usable]

/-- The input check gives the reason of the first input that is not usable (R91). -/
theorem inputCheck_first {s : State} {row : PairRow} {before rest : List Nat} {k : Nat}
    (hrow : row.channels = before ++ k :: rest) (hbefore : ∀ j ∈ before, (s.reading j).quality.usable = true)
    {reason : Reason} (hk : (s.reading k).quality.reason? = some reason) : inputCheck s row = some reason := by
  have hnone : before.findSome? (fun c => (s.reading c).quality.reason?) = none :=
    List.findSome?_eq_none_iff.2 fun j hj => Quality.usable_iff_reason.1 (hbefore j hj)
  rw [inputCheck, hrow, List.findSome?_append, hnone, List.findSome?_cons, hk]
  rfl

theorem inputCheck_eq_none {s : State} {row : PairRow} :
    inputCheck s row = none ↔ ∀ c ∈ row.channels, (s.reading c).quality.usable = true := by
  rw [inputCheck, List.findSome?_eq_none_iff]
  exact forall_congr' fun c => imp_congr_right fun _ => Quality.usable_iff_reason.symm

theorem evaluated_unusable {s : State} {row : PairRow} {reason : Reason} (h : inputCheck s row = some reason) (r : PairRecord) :
    evaluated s row r = { r.toUnknown reason with lastEval := some s.ps.cycle } := by
  rw [evaluated, h]

theorem evaluated_skewed {s : State} {row : PairRow} (h : inputCheck s row = none) (hskew : skewed s row = true) (r : PairRecord) :
    evaluated s row r = { r.toUnknown .skew with lastEval := some s.ps.cycle } := by
  simp only [evaluated, h]
  rw [if_pos hskew]

theorem skewed_eq_false {s : State} {row : PairRow} : skewed s row = false ↔
    readingAge s.ps.cycle (s.reading row.airT) ≤ row.skewLimit ∧ readingAge s.ps.cycle (s.reading row.airRh) ≤ row.skewLimit := by
  simp [skewed]

/-- A margin joins as the newest of at most 8 (R87). -/
theorem pushMargin_eq {history : List Int} (h : history.length ≤ 8) (m : Int) :
    pushMargin history m = (history ++ [m]).drop (history.length + 1 - 8) := by
  unfold pushMargin Config.historyLength
  split
  · rw [Nat.sub_eq_zero_of_le (by omega)]; rfl
  · have h8 : history.length = 8 := by omega
    rw [h8, List.drop_append_of_le_length (by omega), List.drop_one]

/-- The age of a reading, modulo 65536 (R92). -/
theorem readingAge_eq (cycle : Half) {stamp : Half} {r : Reading} (h : r.stamp = some stamp) :
    (readingAge cycle r : Int) = ((cycle.toNat : Int) - stamp.toNat) % 65536 := by
  have h1 := cycle.isLt
  have h2 := stamp.isLt
  rw [readingAge, h, Option.getD_some, BitVec.toNat_sub]
  omega

/-- Settles O37: by the first check that fails, and the computation where none does. -/
theorem evaluationOutcomes : Obligations.EvaluationOutcomes := by
  refine ⟨fun cycle stamp r h => readingAge_eq cycle h, fun s row r => ⟨fun k before rest hrow hbefore => ?_,
    fun k => Quality.usable_iff, fun husable => ?_⟩⟩
  · exact ⟨fun hk => evaluated_unusable (inputCheck_first hrow hbefore (congrArg Quality.reason? hk)) r,
      fun hk => evaluated_unusable (inputCheck_first hrow hbefore (congrArg Quality.reason? hk)) r,
      fun hk => evaluated_unusable (inputCheck_first hrow hbefore (congrArg Quality.reason? hk)) r⟩
  · have hcheck : inputCheck s row = none := inputCheck_eq_none.2 husable
    refine ⟨fun hskew => ?_, fun hfresh hair => ?_, fun td m mp dewLow hfresh hc => ?_⟩
    · exact evaluated_skewed hcheck (by rw [← Bool.not_eq_false, skewed_eq_false]; exact hskew) r
    · have hrange : compute (pairInputs s row) r.history (s.zoneRow row.zone).lookahead = .airRange :=
        compute_eq_airRange_iff.2 fun h => by
          obtain ⟨h1, h2⟩ := airInRange_iff.1 h
          change -1000 ≤ ((s.reading row.airT).value.getD 0) at h1
          change ((s.reading row.airT).value.getD 0) ≤ 4500 at h2
          rcases hair with h | h
          · exact absurd h (by dsimp only; omega)
          · exact absurd h (by dsimp only; omega)
      simp only [evaluated, hcheck, skewed_eq_false.2 hfresh, hrange]
      rfl
    · have hcomputed : compute (pairInputs s row) r.history (s.zoneRow row.zone).lookahead = .computed td m mp dewLow := hc
      simp only [evaluated, hcheck, skewed_eq_false.2 hfresh, hcomputed]
      exact ⟨_, _, _, rfl, rfl, rfl, rfl, rfl, rfl, rfl, rfl, rfl, rfl, rfl, fun h8 => pushMargin_eq h8 m⟩

/-! ### A recompute (R110) -/

theorem countState_cons (e : Nat × PairRecord) (ms : List (Nat × PairRecord)) (l : Option Level) :
    countState (e :: ms) l = countState ms l + if e.2.state.level? = l then 1 else 0 := by
  simp [countState, List.countP_cons]

theorem countState_sum (ms : List (Nat × PairRecord)) :
    countState ms none + countState ms (some .clear) + countState ms (some .watch) + countState ms (some .near)
      + countState ms (some .wet) = ms.length := by
  induction ms with
  | nil => rfl
  | cons e ms ih =>
    simp only [countState_cons, List.length_cons]
    cases e.2.state.level? with
    | none => simp; omega
    | some l => cases l <;> simp <;> omega

theorem countState_some (ms : List (Nat × PairRecord)) (l : Level) :
    countState ms (some l) = (ms.filter fun e => e.2.state == .judged l).length := by
  rw [countState, List.countP_eq_length_filter]
  congr 2; funext e
  cases e.2.state <;> simp [RiskState.level?]

theorem Level.rank_le_max (x y : Level) : x.rank ≤ (x.max y).rank ∧ y.rank ≤ (x.max y).rank := by
  unfold Level.max; split <;> omega

/-- The most severe of a list of levels and a first one is among them, and no less severe than any. -/
theorem foldl_levelMax (ls : List Level) (x : Level) :
    (ls.foldl Level.max x = x ∨ ls.foldl Level.max x ∈ ls) ∧ x.rank ≤ (ls.foldl Level.max x).rank ∧
    ∀ l ∈ ls, l.rank ≤ (ls.foldl Level.max x).rank := by
  induction ls generalizing x with
  | nil => simp
  | cons y ls ih =>
    obtain ⟨hmem, hx, hall⟩ := ih (x.max y)
    obtain ⟨hxy, hyx⟩ := x.rank_le_max y
    rw [List.foldl_cons]
    refine ⟨?_, by omega, fun l hl => ?_⟩
    · rcases hmem with h | h
      · rw [h, Level.max]; split <;> simp
      · exact .inr (List.mem_cons_of_mem _ h)
    · rcases List.mem_cons.1 hl with rfl | hl
      · omega
      · exact hall l hl

theorem mem_levels {ms : List (Nat × PairRecord)} {l : Level} :
    l ∈ ms.filterMap (fun e => e.2.state.level?) ↔ ∃ e ∈ ms, e.2.state = .judged l := by
  simp only [List.mem_filterMap]
  refine exists_congr fun e => and_congr_right fun _ => ?_
  cases e.2.state <;> simp [RiskState.level?]

/-- The worst margin of a list of members: none where every one is UNKNOWN, and otherwise a smallest last_m with the lowest pair
that holds it (R110). -/
structure WorstOf (ms : List (Nat × PairRecord)) (o : Option Worst) : Prop where
  none : o = none ↔ ∀ e ∈ ms, e.2.state.level? = none
  held : ∀ w, o = some w → ∃ e ∈ ms, e.1 = w.pair ∧ e.2.state.level? ≠ Option.none ∧ e.2.lastM = some w.margin
  least : ∀ w, o = some w → ∀ e ∈ ms, ∀ m, e.2.state.level? ≠ Option.none → e.2.lastM = some m →
    w.margin < m ∨ (w.margin = m ∧ w.pair ≤ e.1)

/-- One member's part in the worst margin. -/
theorem worstOf_append (ms : List (Nat × PairRecord)) (e : Nat × PairRecord) :
    worstOf (ms ++ [e]) = if e.2.state.level?.isSome then
      match e.2.lastM with
      | some m => worseOf (worstOf ms) e.1 m
      | none => worstOf ms
      else worstOf ms := by
  unfold worstOf
  rw [List.foldl_append]
  rfl

theorem WorstOf.unknown {ms : List (Nat × PairRecord)} {o : Option Worst} (h : WorstOf ms o) {e : Nat × PairRecord}
    (he : e.2.state.level? = Option.none) : WorstOf (ms ++ [e]) o := by
  refine ⟨?_, fun w hw => ?_, fun w hw x hx m hjudged hm => ?_⟩
  · rw [h.none]
    simp [or_imp, forall_and, he]
  · obtain ⟨x, hx, hheld⟩ := h.held w hw
    exact ⟨x, List.mem_append_left _ hx, hheld⟩
  · rcases List.mem_append.1 hx with hx | hx
    · exact h.least w hw x hx m hjudged hm
    · obtain rfl := List.mem_singleton.1 hx
      exact absurd he hjudged

/-- A judged member that joins behind the others replaces the worst when its margin is smaller (R110). -/
theorem WorstOf.judged {ms : List (Nat × PairRecord)} {o : Option Worst} (h : WorstOf ms o) {e : Nat × PairRecord} {m : Int}
    (he : e.2.state.level? ≠ Option.none) (hm : e.2.lastM = some m) (hlast : ∀ x ∈ ms, x.1 < e.1) :
    WorstOf (ms ++ [e]) (worseOf o e.1 m) := by
  have new : (∀ w, o = some w → m < w.margin) → WorstOf (ms ++ [e]) (some { margin := m, pair := e.1 }) := fun hsmaller => by
    refine ⟨⟨fun h => (by cases h), fun hall => absurd (hall e (by simp)) he⟩, fun w hw => ?_, fun w hw x hx k hjudged hk => ?_⟩
    · cases hw; exact ⟨e, by simp, rfl, he, hm⟩
    · cases hw
      rcases List.mem_append.1 hx with hx | hx
      · cases ho : o with
        | none => exact absurd (h.none.1 ho x hx) hjudged
        | some w =>
          have hw := hsmaller w ho
          rcases h.least w ho x hx k hjudged hk with hlt | ⟨heq, _⟩
          · exact .inl (by dsimp only; omega)
          · exact .inl (by dsimp only; omega)
      · obtain rfl := List.mem_singleton.1 hx
        rw [hm] at hk; cases hk
        exact .inr ⟨rfl, Nat.le_refl _⟩
  cases ho : o with
  | none => exact new fun w hw => by rw [ho] at hw; cases hw
  | some w =>
    simp only [worseOf]
    split
    · exact new fun w' hw' => by rw [ho] at hw'; cases hw'; assumption
    · rename_i hle
      obtain ⟨y, hy, hpair, hyjudged, hym⟩ := h.held w ho
      refine ⟨⟨fun h => (by cases h), fun hall => absurd (hall e (by simp)) he⟩, fun w' hw' => ?_,
        fun w' hw' x hx k hjudged hk => ?_⟩
      · cases hw'; exact ⟨y, List.mem_append_left _ hy, hpair, hyjudged, hym⟩
      · cases hw'
        rcases List.mem_append.1 hx with hx | hx
        · exact h.least w ho x hx k hjudged hk
        · obtain rfl := List.mem_singleton.1 hx
          rw [hm] at hk; cases hk
          have := hlast y hy
          omega

theorem worstOf_spec {ms : List (Nat × PairRecord)} (hw : Keyed.wf ms)
    (hjudged : ∀ e ∈ ms, e.2.state.level? ≠ none → e.2.lastM.isSome = true) : WorstOf ms (worstOf ms) := by
  induction ms using List.reverseRecOn with
  | nil => exact ⟨by simp [worstOf], by simp [worstOf], by simp⟩
  | append_singleton ms e ih =>
    obtain ⟨hms, _, hlast⟩ := List.pairwise_append.1 hw
    have h := ih hms fun x hx => hjudged x (List.mem_append_left _ hx)
    rw [worstOf_append]
    by_cases he : e.2.state.level? = none
    · rw [if_neg (by simp [he])]
      exact h.unknown he
    · rw [if_pos (Option.isSome_iff_ne_none.2 he)]
      obtain ⟨m, hm⟩ := Option.isSome_iff_exists.1 (hjudged e (by simp) he)
      simp only [hm]
      exact h.judged he hm fun x hx => hlast x hx e (by simp)

/-- Settles O38: the counts, the level by `foldl_levelMax`, the worst margin by `worstOf_spec`. -/
theorem recomputeIsTheWorstMember : Obligations.RecomputeIsTheWorstMember := by
  intro blindLimit ms hw hjudged
  obtain ⟨hmem, _, hall⟩ := foldl_levelMax (ms.filterMap fun e => e.2.state.level?) .clear
  have hworst := worstOf_spec hw hjudged
  refine ⟨countState_sum ms, List.countP_eq_length_filter, countState_some ms _, countState_some ms _, countState_some ms _,
    countState_some ms _, decide_eq_true_iff, fun e he l hl => ?_, ?_, hworst.none, fun w hw => ⟨hworst.held w hw, hworst.least w hw⟩⟩
  · exact hall l (List.mem_filterMap.2 ⟨e, he, hl⟩)
  · rcases hmem with h | h
    · by_cases hnone : ∀ e ∈ ms, e.2.state.level? = none
      · exact .inr ⟨h, hnone⟩
      · simp only [not_forall] at hnone
        obtain ⟨e, he, hl⟩ := hnone
        obtain ⟨l, hl⟩ := Option.ne_none_iff_exists'.1 hl
        have hle := hall l (List.mem_filterMap.2 ⟨e, he, hl⟩)
        rw [h] at hle
        have hclear : l = .clear := by cases l <;> simp [Level.rank] at hle ⊢
        subst hclear
        exact .inl (mem_levels.1 (by change (ms.filterMap _).foldl _ _ ∈ _; rw [h]; exact List.mem_filterMap.2 ⟨e, he, hl⟩))
    · exact .inl (mem_levels.1 h)

/-! ### A node's held block (R4, R5) -/

/-- A node that is asked for the toggle of its held block repeats the block (R4). -/
theorem nodeAnswersPoll_held {h : HeldBlock} {e : Bool} (he : h.toggle = e) (news : Option (List SampleRecord)) :
    nodeAnswersPoll (some h) news none e = (.data e h.records, some h) := by
  simp [nodeAnswersPoll, Option.filter, he]

/-- A node whose held block has the other toggle, or that holds none, treats it as taken (R4). -/
theorem nodeAnswersPoll_taken {held : Option HeldBlock} {e : Bool} (h : ∀ b ∈ held, b.toggle ≠ e)
    (news : Option (List SampleRecord)) : nodeAnswersPoll held news none e =
      match news with
      | some records => (.data e records, some { records := records, toggle := e })
      | none => (.empty, none) := by
  have hnone : held.filter (fun b => b.toggle == e) = none := by
    rw [Option.filter_eq_none_iff]
    exact fun b hb => by simpa using h b hb
  cases news <;> simp only [nodeAnswersPoll, hnone]

/-- What a node without a fault answers: the block it holds for the toggle asked, a new block, or EMPTY. -/
theorem nodeAnswersPoll_cases (held : Option HeldBlock) (news : Option (List SampleRecord)) (e : Bool) :
    (∃ h ∈ held, h.toggle = e ∧ nodeAnswersPoll held news none e = (.data e h.records, some h)) ∨
    ((∀ b ∈ held, b.toggle ≠ e) ∧
      ((∃ records, news = some records ∧
          nodeAnswersPoll held news none e = (.data e records, some { records := records, toggle := e })) ∨
        (news = none ∧ nodeAnswersPoll held news none e = (.empty, none)))) := by
  by_cases h : ∃ b ∈ held, b.toggle = e
  · obtain ⟨b, hb, he⟩ := h
    refine .inl ⟨b, hb, he, ?_⟩
    rw [Option.mem_def.1 hb]
    exact nodeAnswersPoll_held he news
  · have h : ∀ b ∈ held, b.toggle ≠ e := fun b hb he => h ⟨b, hb, he⟩
    refine .inr ⟨h, ?_⟩
    rw [nodeAnswersPoll_taken h news]
    cases news with
    | none => exact .inr ⟨rfl, rfl⟩
    | some records => exact .inl ⟨records, rfl, rfl⟩

/-- Settles O42: by what the node holds and the new samples it has. -/
theorem lostReplyIsRepeated : Obligations.LostReplyIsRepeated := by
  intro held news later e first
  have after : ∀ records, first.1 = .data e records → ∃ b : HeldBlock, b.toggle = e ∧ first = (.data e b.records, some b) := by
    intro records hdata
    rcases nodeAnswersPoll_cases held news e with ⟨b, _, he, h⟩ | ⟨_, ⟨records', _, h⟩ | ⟨_, h⟩⟩
    · exact ⟨b, he, h⟩
    · exact ⟨{ records := records', toggle := e }, rfl, h⟩
    · exact absurd (hdata.symm.trans (congrArg Prod.fst h)) (by simp)
  refine ⟨fun fault l m => ?_, fun records hdata => ?_, fun records hdata => ?_, ?_, fun code => rfl⟩
  · cases fault with
    | some code => simp [nodeAnswersPoll, takenOf]
    | none => rcases nodeAnswersPoll_cases held news e with ⟨b, _, _, h⟩ | ⟨_, ⟨_, _, h⟩ | ⟨_, h⟩⟩ <;> simp [h, takenOf]
  · obtain ⟨b, he, h⟩ := after records hdata
    rw [h]
    exact nodeAnswersPoll_held he later
  · obtain ⟨b, he, h⟩ := after records hdata
    rw [h]
    exact nodeAnswersPoll_taken (by simp [he]) later
  · rcases nodeAnswersPoll_cases held news e with ⟨b, hb, he, h⟩ | ⟨hother, ⟨_, hnews, h⟩ | ⟨hnews, h⟩⟩
    · exact iff_of_false (by simp [first, h]) fun ⟨_, hall⟩ => hall b hb he
    · exact iff_of_false (by simp [first, h]) fun ⟨hnone, _⟩ => by simp [hnone] at hnews
    · exact iff_of_true (by simp [first, h]) ⟨hnews, hother⟩

end Sys2Proof.Machine

/-! SUPPORT. Bits on a line, the events of the trunk's lines and of the uplink's line, and a request's frame: the statements O49, O50,
O52 and O53. -/

namespace Sys2Proof.Machine

/-! ### Bits on a line (R1, R162) -/

/-- A byte's bits in the order sent: the start bit, the data bits with the least significant first, the stop bit. -/
theorem wordLevels_lineWord (b : Byte) :
    wordLevels (lineWord b) = [false] ++ (List.range 8).map (fun k => b.getLsbD k) ++ [true] := by
  have h8 : List.range 8 = [0, 1, 2, 3, 4, 5, 6, 7] := rfl
  have h10 : List.range 10 = [0, 1, 2, 3, 4, 5, 6, 7, 8, 9] := rfl
  simp [wordLevels, h8, h10, lineWord_getLsbD]

theorem lineLevels_eq (bs : List Byte) :
    lineLevels bs = bs.flatMap fun b => [false] ++ (List.range 8).map (fun k => b.getLsbD k) ++ [true] := by
  simp only [lineLevels, wordLevels_lineWord]

/-! ### An event that comes to nothing -/

/-- An event that leaves the state as it is leaves it, whether the part is live or not. -/
theorem event_same {f : State → State} {s : State} (h : f s = s) : event f s = .next s := by
  rw [event, h, ite_self]

theorem event_not_live {f : State → State} {s : State} (h : s.live = false) : event f s = .next s := by
  rw [event, h]; rfl

/-! ### The poll frame (R1, R2, R195) -/

/-- The poll frame's bytes. -/
theorem frameBytes_eq (x : Exchange) : x.frameBytes =
    let body := [byte x.node, byte (x.kind.code + if x.toggle then 128 else 0), byte x.payload.length] ++ x.payload
    [0xA5#8] ++ body ++ [(check16 body).extractLsb' 8 8, (check16 body).extractLsb' 0 8] := by
  simp [Exchange.frameBytes, Exchange.body, bitAt, wordBytes]

theorem sentOn_driven {s : State} {l : Line} {x : Exchange} (hx : s.ti.exchange = some x) (hphase : x.phase = .sending)
    (hdir : s.direction l = true) : s.sentOn l = lineLevels x.frameBytes := by
  simp only [State.sentOn, hx]
  exact if_pos ⟨hphase, hdir⟩

theorem sentOn_undriven {s : State} {l : Line}
    (h : s.direction l = false ∨ ∀ x, s.ti.exchange = some x → x.phase ≠ .sending) : s.sentOn l = [] := by
  unfold State.sentOn
  split
  · rfl
  · rename_i x hx
    refine if_neg fun ⟨hphase, hdir⟩ => ?_
    rcases h with h | h
    · rw [h] at hdir; cases hdir
    · exact h x hx hphase

theorem direction_eq (s : State) (l : Line) :
    s.direction l = match l with
      | .a => s.ti.dirA
      | .b => s.ti.dirB := by
  cases l <;> rfl

/-- Settles O49: the frame's bytes and bits, and its start and end by the exchange's stage. -/
theorem pollFrameIsSent : Obligations.PollFrameIsSent := by
  refine ⟨⟨rfl, rfl⟩, frameBytes_eq, fun s l => ⟨fun x hx hphase hdir => ?_, fun h => ?_⟩, fun s x hlive hx => ?_, fun s h => ?_⟩
  · rw [sentOn_driven hx hphase ((direction_eq s l).trans hdir), lineLevels_eq]
  · exact sentOn_undriven (h.imp_left (direction_eq s l).trans)
  · refine ⟨fun h => ?_, fun h => ?_, fun h => event_same ?_, fun h => event_same ?_⟩
    · simp [exec, execTrunkFrameSend, event_live hlive, frameStarts, hx, h]
    · simp [exec, execTrunkFrameEnd, event_live hlive, frameSent, hx, h]
    · rcases frameStarts_cases s with e | ⟨y, hy, hphase, _⟩
      · exact e
      · rw [hx] at hy; cases hy; exact absurd hphase h
    · rcases frameSent_cases s with e | ⟨y, hy, hphase, _⟩
      · exact e
      · rw [hx] at hy; cases hy; exact absurd hphase h
  · exact ⟨event_same (by simp [frameStarts, h]), event_same (by simp [frameSent, h])⟩

/-! ### Lines conclude (R7 to R9) -/

theorem hear_listening (seen : Bool) (node : Nat) (shown : List LineActivity) :
    (LineState.listening seen).hear node shown =
      (gradeLine node seen shown).lineState (.listening (seen || decide (shown ≠ []))) := by
  cases shown <;> simp [LineState.hear]

theorem hear_started (node : Nat) (shown : List LineActivity) :
    LineState.started.hear node shown = (gradeLine node false shown).lineState .started := rfl

/-- An exchange whose reply is awaited takes a trunk event on its lines, and may complete (R8). -/
theorem whileListening_of_listening {s : State} {x : Exchange} (hx : s.ti.exchange = some x) (hphase : x.phase = .listening)
    (f : Exchange → Exchange) : whileListening f s = settleExchange (f x) s := by
  simp only [whileListening, hx, hphase]

theorem whileListening_of_not {s : State} (h : ∀ x, s.ti.exchange = some x → x.phase ≠ .listening) (f : Exchange → Exchange) :
    whileListening f s = s := by
  unfold whileListening
  split
  · rfl
  · rename_i x hx
    split
    · exact absurd ‹_› (h x hx)
    · rfl
    · rfl

/-- Settles O50: the changes of a line's state, and what they come to for the exchange. -/
theorem linesConclude : Obligations.LinesConclude := by
  refine ⟨fun c node shown sight => ⟨rfl, rfl, rfl⟩, fun seen node shown => ⟨fun c h => ?_, fun h => ?_, fun h => ?_, rfl⟩,
    fun node shown => ⟨fun c h => ?_, fun h => ?_, rfl⟩, fun seen => ⟨?_, rfl, rfl, fun sight => rfl⟩,
    fun s x hlive hx hphase => ?_, fun s h l shown a b => ?_⟩
  · rw [hear_listening, h]; rfl
  · rw [hear_listening, h]; rfl
  · rw [hear_listening, h]; rfl
  · rw [hear_started, h]; rfl
  · rw [hear_started]
    cases hg : gradeLine node false shown with
    | ended c => exact absurd hg (h c)
    | unfinished => rfl
    | notStarted => rfl
  · cases seen <;> rfl
  · have settles : ∀ f : Exchange → Exchange, event (whileListening f) s = .next (settleExchange (f x) s) := fun f => by
      rw [event_live hlive, whileListening_of_listening hx hphase]
    refine ⟨fun shown => ⟨settles _, settles _⟩, settles _, settles _, fun a b ht => ?_, fun a b ht => ?_⟩
    · have e := settles (Exchange.timeout a b)
      rw [Exchange.timeout, if_neg (by simp [ht])] at e
      exact e
    · have e := settles (Exchange.timeout a b)
      rw [Exchange.timeout, if_pos ht] at e
      exact e
  · exact ⟨event_same (whileListening_of_not h _), event_same (whileListening_of_not h _), event_same (whileListening_of_not h _)⟩

/-! ### A request's frame (R163, R166 to R169) -/

theorem frameArrives_not_taken {s : State} (h : s.live = false ∨ (s.ui.receiver ≠ .ready ∧ s.ui.receiver ≠ .receiving))
    (a code : Byte) (r : Option Request) (p : List Byte) : event (frameArrives a code r p) s = .next s := by
  rcases h with h | ⟨h1, h2⟩
  · exact event_not_live h
  · exact event_same (receiving_not_taken h1 h2 _)

theorem frameArrives_too_long {s : State} (hlive : s.live = true) (htakes : s.ui.takes) (a code : Byte) (r : Option Request)
    {p : List Byte} (hp : 240 < p.length) : event (frameArrives a code r p) s = .next (discardFrame s) := by
  rw [event_live hlive]
  rcases frameArrives_cases a code r p s with ⟨h1, h2, _⟩ | ⟨_, _, e⟩ | ⟨_, hshort, _⟩ | ⟨_, hshort, _⟩
  · exact absurd htakes (by rintro (h | h); exacts [h1 h, h2 h])
  · rw [e]
  · omega
  · omega

theorem frameArrives_other {s : State} (hlive : s.live = true) (htakes : s.ui.takes) {a : Byte} (code : Byte)
    (r : Option Request) {p : List Byte} (hp : p.length ≤ 240) (ha : a.toNat ≠ s.tb.active.general.uplinkAddress) :
    event (frameArrives a code r p) s = .next (s.setUi { s.ui with receiver := .other }) := by
  rw [event_live hlive]
  rcases frameArrives_cases a code r p s with ⟨h1, h2, _⟩ | ⟨_, hlong, _⟩ | ⟨_, _, haddr, _⟩ | ⟨_, _, _, e⟩
  · exact absurd htakes (by rintro (h | h); exacts [h1 h, h2 h])
  · omega
  · exact absurd (decide_eq_true_iff.1 haddr) ha
  · rw [e]

/-- Every request is in the table of R168, under the code and the lengths of R196. -/
theorem requestTable (r : Request) : (r, r.code, r.lengths.1, r.lengths.2) ∈
    Request.all.map fun r => (r, r.code, r.lengths.1, r.lengths.2) :=
  List.mem_map.2 ⟨r, by cases r <;> decide, rfl⟩

theorem attentionOf_eq (s : State) : attentionOf s =
    { alerts := decide (s.zm.alerts ≠ []), results := decide (s.ru.results ≠ []), loadOpen := s.tb.load.isSome
      summaryOpen := s.zm.summary.isOpen, commitPending := s.tb.pendingCommit.isSome
      saving := s.cs.saveWrite.isSome, mode := s.mc.mode } := by
  unfold attentionOf
  congr 1
  · cases s.zm.alerts <;> simp
  · cases s.ru.results <;> simp

/-- Settles O53: the table of requests, and the cases of a frame's arrival. -/
theorem requestFrames : Obligations.RequestFrames := by
  refine ⟨fun r code least greatest => ?_, fun r a p s => ⟨fun h => ?_, fun hlive htakes hp ha => ?_, fun hlive htakes hp => ?_,
    fun h hp hlength hmode => ?_, fun h hp => ?_, r.ofCode_code, fun code status t => ?_, fun x => rfl, fun x => lineLevels_eq _⟩⟩
  · change (r, code, least, greatest) ∈ Request.all.map (fun r => (r, r.code, r.lengths.1, r.lengths.2)) ↔ _
    constructor
    · rintro h
      obtain ⟨q, _, he⟩ := List.mem_map.1 h
      cases he; exact ⟨rfl, rfl⟩
    · rintro ⟨rfl, h⟩
      have hmem := requestTable r
      rw [h] at hmem
      exact hmem
  · rw [exec_command, frameArrives_not_taken h]
  · rw [exec_command, frameArrives_other hlive htakes _ _ hp ha]
  · rw [exec_command, frameArrives_too_long hlive htakes _ _ _ hp, discardFrame_eq]
  · have hfit : r.lengthFits p.length = false := by
      simp only [Request.lengthFits, Bool.and_eq_false_iff, decide_eq_false_iff_not]
      omega
    rw [exec_command, frameArrives_heard h _ _ p hp, handleRequest, judgeRequest, hfit, Request.follow,
      if_neg (by simpa using hmode)]
    rfl
  · change _ = event (frameArrives a r.code (Request.ofCode r.code) p) s
    rw [exec_command, r.ofCode_code]
  · rw [← attentionOf_eq]; rfl

/-! ### The events of the uplink's line (R166, R176, R177) -/

theorem receiverMoves_of {s : State} {x y : Receiver} (h : s.ui.receiver = x) :
    receiverMoves x y s = s.setUi { s.ui with receiver := y } := if_pos h

theorem receiverMoves_of_not {s : State} {x y : Receiver} (h : s.ui.receiver ≠ x) : receiverMoves x y s = s := if_neg h

theorem frameDefect_takes {s : State} (h : s.ui.takes) : receiving discardFrame s = discardFrame s := by
  rcases frameDefect_cases s with ⟨_, e⟩ | ⟨h1, h2, _⟩
  · exact e
  · exact absurd h (by rintro (h | h); exacts [h1 h, h2 h])

theorem receiving_of_not_takes {s : State} (h : ¬ s.ui.takes) (f : State → State) : receiving f s = s :=
  receiving_not_taken (fun e => h (.inl e)) (fun e => h (.inr e)) f

/-- An open summary sequence that is broken is closed with its marker set (R125, R126). -/
theorem breakSummary_eq (s : State) : breakSummary s = s.setZm (if s.zm.summary.isOpen = true then
    { s.zm with
      summary := { isOpen := false, nextRecord := 0, held := 0, broken := true }
      bank := if 0 < s.zm.summary.held then { publicationCycle := some s.ps.cycle, records := s.zm.zones } else s.zm.bank }
    else s.zm) := by
  unfold breakSummary markBroken
  rw [closeSummary_eq]
  split <;> rfl

theorem frameWithCheck_wrong {s : State} {a c : Byte} {p : List Byte} {k : Half}
    (h : 240 < p.length ∨ k ≠ check16 (a :: c :: byte p.length :: p)) :
    frameWithCheck a c p k s = receiving discardFrame s := if_pos h

theorem frameWithCheck_right {s : State} {a c : Byte} {p : List Byte} (h : p.length ≤ 240) :
    frameWithCheck a c p (check16 (a :: c :: byte p.length :: p)) s = frameArrives a c (Request.ofCode c) p s :=
  if_neg (by rintro (h' | h'); exacts [absurd h' (by omega), h' rfl])

/-- Settles O52: the receiver's moves, the frames with a defect or a check, the response, and the break. -/
theorem uplinkLineEvents : Obligations.UplinkLineEvents := by
  intro s hlive moved counted takes
  have live : ∀ f, event f s = .next (f s) := fun f => event_live hlive
  have hcounted : discardFrame s = counted := discardFrame_eq s
  have not_takes : ∀ {r}, s.ui.receiver = r → r ≠ .ready → r ≠ .receiving → ¬ s.ui.takes := fun h h1 h2 => by
    rintro (e | e)
    · exact h1 (h.symm.trans e)
    · exact h2 (h.symm.trans e)
  refine ⟨fun h => ?_, fun h => ?_, fun h => ?_, fun h => ?_, fun h => ?_, fun h => ?_, fun a c p k h hk => ?_, fun a c p h hp ha => ?_,
    fun a c p h hp ha hc => ?_, fun a c p h hp => ?_, fun a c p => rfl, fun a c p hp => ?_, fun a c p k h => ?_, ?_, ?_, ?_, ?_, ?_, ?_,
    ?_, ?_, ?_, ?_, ?_, ?_⟩
  · exact (live _).trans (congrArg _ (receiverMoves_of h))
  · exact event_same (receiverMoves_of_not h)
  · exact (live _).trans (congrArg _ (receiverMoves_of h))
  · exact event_same (receiverMoves_of_not h)
  · have e : event frameDefect s = .next counted := by rw [live, frameDefect, frameDefect_takes h, hcounted]
    exact ⟨e, fun _ => e⟩
  · have e : event frameDefect s = .next s := event_same (receiving_of_not_takes h _)
    exact ⟨e, fun _ => e⟩
  · change event (frameWithCheck a c p k) s = _
    rw [live, frameWithCheck_wrong hk, frameDefect_takes h, hcounted]
  · exact frameArrives_other hlive h _ _ hp ha
  · change event (frameArrives a c (Request.ofCode c) p) s = _
    rw [hc, frameArrives_heard ⟨hlive, h, ha⟩ c none p hp]
    rfl
  · rw [← hcounted]
    exact frameArrives_too_long hlive h _ _ _ hp
  · change event (frameWithCheck a c p _) s = event (frameArrives a c _ p) s
    rw [live, live, frameWithCheck_right hp]
  · have e : event (frameArrives a c (Request.ofCode c) p) s = .next s := event_same (receiving_of_not_takes h _)
    refine ⟨event_same ?_, e, e⟩
    unfold frameWithCheck
    split <;> exact receiving_of_not_takes h _
  · exact fun h hr => (live _).trans (congrArg _ (if_pos ⟨h, hr⟩))
  · exact fun h hd => (live _).trans (congrArg _ (if_pos ⟨h, hd⟩))
  · exact fun h => ⟨event_same (if_neg fun e => h e.1), event_same (if_neg fun e => h e.1)⟩
  · rintro bs (h | h) <;> exact (live _).trans (by simp only [breakSeen, h]; rfl)
  · rintro bs h
    refine (live _).trans (congrArg _ ?_)
    have e := receiving_taken h (enterSpace (some bs))
    rcases h with h | h <;> simp only [breakSeen, h] <;> rw [e] <;> rfl
  · intro bs h
    refine event_same ?_
    simp only [List.mem_cons, List.not_mem_nil, or_false] at h
    rcases h with h | h | h | h <;> simp only [breakSeen, h]
  · intro h hheld
    refine (live _).trans (congrArg _ ?_)
    unfold spaceEnds
    rw [if_pos h, if_pos (Option.isSome_iff_ne_none.2 hheld), ← hcounted]
    rfl
  · intro h hheld
    refine (live _).trans (congrArg _ ?_)
    unfold spaceEnds
    rw [if_pos h, if_neg (by simp [hheld])]
    simp [moved, hheld]
  · intro h
    refine (live _).trans (congrArg _ ?_)
    unfold lineBreakTaken
    rw [if_pos h, breakSummary_eq]
    rfl
  · exact fun h => ⟨event_same (if_neg h), event_same (if_neg h)⟩
  · exact fun h => (live _).trans (congrArg _ (receiverMoves_of h))
  · exact fun h => event_same (receiverMoves_of_not h)

end Sys2Proof.Machine

/-! SUPPORT. The requests that change the part: SKIP and the forces, MODE, RESTART and COUNTERS, the loads, and the relays: the
statements O55, O57, O59 and O60. -/

namespace Sys2Proof.Machine

/-! ### Operands -/

theorem nodeInRange_iff {n : Nat} : nodeInRange n = true ↔ 1 ≤ n ∧ n ≤ 126 := by simp [nodeInRange]

theorem Request.lengthFits_iff {r : Request} {n : Nat} : r.lengthFits n = true ↔ r.lengths.1 ≤ n ∧ n ≤ r.lengths.2 := by
  simp [Request.lengthFits]

theorem ForceKind.ofCode_le {n : Nat} (h : n ≤ 1) : ForceKind.ofCode n = some (if n = 0 then .substitute else .pin) := by
  unfold ForceKind.ofCode
  split
  · rfl
  · rw [if_pos (by omega)]

theorem ForceKind.ofCode_gt {n : Nat} (h : 1 < n) : ForceKind.ofCode n = none := by
  rw [ForceKind.ofCode, if_neg (by omega), if_neg (by omega)]

theorem TableId.ofCode_gt {n : Nat} (h : 4 < n) : TableId.ofCode n = none := by
  simp only [TableId.ofCode]
  rw [if_neg (by omega), if_neg (by omega), if_neg (by omega), if_neg (by omega), if_neg (by omega)]

theorem LoadMethod.ofCode_gt {n : Nat} (h : 1 < n) : LoadMethod.ofCode n = none := by
  rw [LoadMethod.ofCode, if_neg (by omega), if_neg (by omega)]

/-- A row that is new makes a collection longer by one. -/
theorem Keyed.length_put_new {α : Type} {t : Keyed α} {k : Nat} (h : t.get k = none) (v : α) :
    (t.put k v).length = t.length + 1 := by
  induction t with
  | nil => rfl
  | cons e t ih =>
    obtain ⟨j, w⟩ := e
    rw [Keyed.get_cons] at h
    unfold Keyed.put
    split
    · rfl
    · split
      · rename_i hk; simp [hk] at h
      · rw [if_neg (by omega)] at h
        simp [ih h]

/-- A row that is replaced keeps a collection's length. -/
theorem Keyed.length_put_old {α : Type} {t : Keyed α} (hw : Keyed.wf t) {k : Nat} {w : α} (h : t.get k = some w) (v : α) :
    (t.put k v).length = t.length := by
  have hkeys := Keyed.keys_put_of_mem hw (Keyed.get_isSome_iff.1 (by rw [h]; rfl)) v
  simpa [Keyed.keys] using congrArg List.length hkeys

/-! ### SKIP, FORCE_SET and FORCE_CLEAR -/

/-- Settles O55: the checks of the three requests in their order. -/
theorem skipAndForces : Obligations.SkipAndForces := by
  intro s a h
  have skip : ∀ (node n : Byte) (ans : Answer), serveSkip [node, n] s = ans →
      exec (.skip a [node, n]) s = .next (answeredWith a 0x11 ans.status ans.payload ans.state) := fun node n ans hserve =>
    exec_answered (r := .skip) h [node, n] _ _ rfl (by simp) (by simp) hserve
  have force : ∀ (k kind hi lo : Byte) (ans : Answer), serveForceSet [k, kind, hi, lo] s = ans →
      exec (.forceSet a [k, kind, hi, lo]) s = .next (answeredWith a 0x21 ans.status ans.payload ans.state) :=
    fun k kind hi lo ans hserve => exec_answered (r := .forceSet) h [k, kind, hi, lo] _ _ rfl (by simp) (by simp) hserve
  have clear : ∀ (k : Byte) (ans : Answer), serveForceClear [k] s = ans →
      exec (.forceClear a [k]) s = .next (answeredWith a 0x22 ans.status ans.payload ans.state) := fun k ans hserve =>
    exec_answered (r := .forceClear) h [k] _ _ rfl (by simp) (by simp) hserve
  have clearOne : ∀ k : Byte, k.toNat < 128 → serveForceClear [k] s = match s.si.forces.get k.toNat with
      | none => refuse .notFound s
      | some f => accept (intBytes f.value ++ [byte f.kind.code]) (s.setSi { s.si with forces := s.si.forces.del k.toNat }) :=
    fun k hk => (if_neg (by omega)).trans (if_neg (by simpa [Config.channels] using hk))
  refine ⟨fun node n hr => skip node n (refuse .badField s) ?_, fun node n h1 h2 hnone => skip node n (refuse .notFound s) ?_,
    fun node n r h1 h2 hr => skip node n
      (accept [byte r.skipRemaining] (s.setTi { s.ti with nodes := s.ti.nodes.put node.toNat { r with skipRemaining := n.toNat } })) ?_, fun k kind hi lo hr => force k kind hi lo (refuse .badField s) ?_,
    fun k kind hi lo hk hkind hrow => force k kind hi lo (refuse .notFound s) ?_, fun k kind hi lo row hk hkind hrow => ?_,
    fun k h1 h2 => clear k (refuse .badField s) ?_, fun k hk hnone => clear k (refuse .notFound s) ?_,
    fun k old hk hold => clear k
      (accept (intBytes old.value ++ [byte old.kind.code]) (s.setSi { s.si with forces := s.si.forces.del k.toNat })) ?_, clear 0xFF (accept _ _) rfl⟩
  · rw [serveSkip, if_neg (by rw [nodeInRange_iff]; omega)]
  · rw [serveSkip, if_pos (nodeInRange_iff.2 ⟨h1, h2⟩)]
    simp only [hnone]
  · rw [serveSkip, if_pos (nodeInRange_iff.2 ⟨h1, h2⟩)]
    simp only [hr]
  · unfold serveForceSet
    rcases Nat.lt_or_ge 1 kind.toNat with hkind | hkind
    · simp only [ForceKind.ofCode_gt hkind]
    · simp only [ForceKind.ofCode_le hkind]
      exact if_pos (hr.resolve_right (by omega))
  · unfold serveForceSet
    simp only [ForceKind.ofCode_le hkind, hrow]
    exact if_neg (by simpa [Config.channels] using hk)
  · intro value entry
    have serve : serveForceSet [k, kind, hi, lo] s =
        if row.kind.inRange value = false then refuse .badField s
        else if Config.forceEntries ≤ s.si.forces.length ∧ s.si.forces.get k.toNat = none then refuse .full s
        else accept (forceSetPayload (s.si.forces.put k.toNat entry).length (s.si.forces.get k.toNat))
          (s.setSi { s.si with forces := s.si.forces.put k.toNat entry }) := by
      unfold serveForceSet
      simp only [ForceKind.ofCode_le hkind, hrow]
      exact if_neg (by simpa [Config.channels] using hk)
    refine ⟨fun hout => force k kind hi lo (refuse .badField s) ?_, fun hlo hhi => ?_⟩
    · rw [serve, if_pos (by rw [← Bool.not_eq_true, ProbeKind.inRange_iff]; omega)]
    · have hin : ¬ row.kind.inRange value = false := by rw [Bool.not_eq_false, ProbeKind.inRange_iff]; exact ⟨hlo, hhi⟩
      rw [if_neg hin] at serve
      refine ⟨fun hnone hfull => force k kind hi lo (refuse .full s) ?_, fun hnone hroom => force k kind hi lo (accept _ _) ?_,
        fun old hw hold => force k kind hi lo (accept _ _) ?_⟩
      · rw [serve, if_pos ⟨hfull, hnone⟩]
      · rw [serve, if_neg fun hc => absurd hc.1 (Nat.not_le.2 hroom), hnone, Keyed.length_put_new hnone]; rfl
      · rw [serve, if_neg (by simp [hold]), hold, Keyed.length_put_old hw hold]; rfl
  · have hne : k.toNat ≠ 0xFF := fun e => h2 (BitVec.eq_of_toNat_eq e)
    rw [serveForceClear, if_neg hne, if_pos (by simpa [Config.channels] using h1)]
  · rw [clearOne k hk, hnone]
  · rw [clearOne k hk, hold]

/-! ### MODE, RESTART and COUNTERS -/

theorem afterMode_settled {s : State} (h1 : ¬ (s.mc.mode = .survey ∧ s.ps.phase = .halted))
    (h2 : ¬ (s.mc.mode = .stopping ∧ s.ps.phase = .waiting)) : afterMode s = s := by
  rw [afterMode, if_neg h1, if_neg h2]

/-- A MODE that is heard is answered, and what follows it comes in its step (R180, notes/assumptions/19.md). -/
theorem exec_mode_heard {s : State} {a : Byte} (h : Heard s a) {p : List Byte} (hp : p.length ≤ 240) :
    exec (.mode a p) s = .next (afterMode (respond a 0x04 (judgeRequest (some .mode) p s))) := by
  change event (frameArrives a 0x04 (some .mode) p) s = _
  rw [frameArrives_heard h _ _ p hp]
  rfl

/-- Settles O59: MODE's answers by `serveMode`, and what `afterMode` makes of the state answered. -/
theorem modeRestartCounters : Obligations.ModeRestartCounters := by
  intro s a h kept entered settled
  have answered : ∀ {p : List Byte} {ans : Answer}, p.length ≤ 240 → judgeRequest (some .mode) p s = ans →
      exec (.mode a p) s = .next (afterMode (answeredWith a 0x04 ans.status ans.payload ans.state)) := fun hp hj => by
    rw [exec_mode_heard h hp, hj]; rfl
  have rests : ∀ (status : Status) (payload : List Byte), settled →
      afterMode (answeredWith a 0x04 status payload s) = answeredWith a 0x04 status payload s := fun status payload hs =>
    afterMode_settled (s := answeredWith a 0x04 status payload s)
      (by rintro ⟨h1, h2⟩
          change s.mc.mode = _ at h1; change s.ps.phase = _ at h2
          rcases hs with hs | ⟨_, hs⟩ | ⟨hs, _⟩
          · rw [hs] at h1; cases h1
          · exact hs h2
          · rw [hs] at h1; cases h1)
      (by rintro ⟨h1, h2⟩
          change s.mc.mode = _ at h1; change s.ps.phase = _ at h2
          rcases hs with hs | ⟨hs, _⟩ | ⟨_, hs⟩
          · rw [hs] at h1; cases h1
          · rw [hs] at h1; cases h1
          · exact hs h2)
  have kept_of : ∀ {m : Mode}, s.mc.mode = m → entered m = kept := fun hm => by
    subst hm; rfl
  have target : ∀ {b : Byte} {t m : Mode}, modeTarget b = some t → modeAfter t s.tb.active.poll s.mc.mode = some m →
      exec (.mode a [b]) s = .next (afterMode (entered m)) := fun {b t m} ht hm =>
    answered (p := [b]) (ans := accept [byte m.code] (s.setMc { s.mc with mode := m })) (by simp) (by
      change serveMode [b] s = _
      simp only [serveMode, ht, hm])
  have h1 : modeTarget 1 = some .idle := rfl
  have h2 : modeTarget 2 = some .survey := rfl
  refine ⟨fun p hs hp hlen => ?_, fun b hs hb1 hb2 => ?_, fun hm hpoll => ?_, fun hm hpoll hphase => ?_, fun hm hphase => ?_,
    fun hm hphase => ?_, fun hm => ?_, fun hm hphase => ?_, fun hm hphase => ?_, fun hm hphase => ?_, ?_, ?_⟩
  · have hfit : Request.mode.lengthFits p.length = false := by
      rw [← Bool.not_eq_true, Request.lengthFits_iff]
      change ¬ (1 ≤ p.length ∧ p.length ≤ 1)
      omega
    rw [answered (ans := refuse .badLength s) hp (by rw [judgeRequest, hfit]; rfl)]
    exact congrArg _ (rests _ _ hs)
  · have hnone : modeTarget b = none := by
      rw [modeTarget, if_neg (show ¬ b.toNat = Mode.survey.code from fun e => hb2 (BitVec.eq_of_toNat_eq e)),
        if_neg (show ¬ b.toNat = Mode.idle.code from fun e => hb1 (BitVec.eq_of_toNat_eq e))]
    rw [answered (p := [b]) (ans := refuse .badField s) (by simp) (by change serveMode [b] s = _; simp only [serveMode, hnone])]
    exact congrArg _ (rests _ _ hs)
  · have hafter : modeAfter .survey s.tb.active.poll s.mc.mode = none := by rw [hm]; exact if_pos hpoll
    rw [answered (p := [2]) (ans := refuse .wrongMode s) (by simp) (by
      change serveMode [2] s = _; simp only [serveMode, h2, hafter])]
    exact congrArg _ (rests _ _ (.inl hm))
  · rw [target h2 (m := .survey) (by rw [hm]; exact if_neg hpoll)]
    exact congrArg _ (if_pos ⟨rfl, hphase⟩)
  · rw [target h2 (m := .survey) (by rw [hm]; rfl), kept_of hm]
    exact congrArg _ (rests _ _ (.inr (.inl ⟨hm, hphase⟩)))
  · rw [target h2 (m := .survey) (by rw [hm]; rfl)]
    refine congrArg _ (afterMode_settled ?_ ?_)
    · rintro ⟨_, e⟩; exact absurd (hphase.symm.trans e) (by simp)
    · rintro ⟨e, _⟩; cases e
  · rw [target h1 (m := .idle) (by rw [hm]; rfl), kept_of hm]
    exact congrArg _ (rests _ _ (.inl hm))
  · rw [target h1 (m := .stopping) (by rw [hm]; rfl)]
    refine congrArg _ (afterMode_settled ?_ ?_)
    · rintro ⟨e, _⟩; cases e
    · rintro ⟨_, e⟩; exact absurd (hphase.symm.trans e) (by simp)
  · rw [target h1 (m := .stopping) (by rw [hm]; rfl)]
    refine congrArg _ ?_
    unfold afterMode
    rw [if_neg (by rintro ⟨e, _⟩; cases e), if_pos ⟨rfl, hphase⟩]
  · rw [target h1 (m := .stopping) (by rw [hm]; rfl), kept_of hm]
    exact congrArg _ (rests _ _ (.inr (.inr ⟨hm, by rw [hphase]; simp⟩)))
  · exact exec_answered (r := .restart) h [] [] .ok rfl (by simp) (by simp) rfl
  · refine exec_answered (r := .counters) h [] _ .ok rfl (by simp) (by simp) ?_
    change serveCounters [] s = _
    unfold serveCounters
    cases s.ui.overflow <;> rfl

/-! ### The load requests -/

theorem TableRows.capacity_eq (t : TableRows) : t.table.capacity = match t with
    | .poll _ => 96
    | .probe _ => 128
    | .pair _ => 64
    | .zone _ => 32
    | .general _ => 1 := by
  cases t <;> rfl

theorem TableRows.applyEntry_put {t : TableRows} {op index : Byte} (row : List Byte) (hop : op.toNat = 1) :
    t.applyEntry (op :: index :: row) = t.putBytes index.toNat row := if_pos hop

theorem TableRows.applyEntry_delete {t : TableRows} {op index : Byte} (row : List Byte) (hop : op.toNat = 2) :
    t.applyEntry (op :: index :: row) = t.delete index.toNat := by
  rw [TableRows.applyEntry, if_neg (by omega), if_pos hop]

theorem TableRows.applyEntry_outside {t : TableRows} {op index : Byte} (row : List Byte)
    (h : t.table.capacity ≤ index.toNat) : t.applyEntry (op :: index :: row) = none := by
  by_cases h1 : op.toNat = 1
  · rw [TableRows.applyEntry_put row h1]
    exact if_pos h
  · by_cases h2 : op.toNat = 2
    · rw [TableRows.applyEntry_delete row h2]
      exact if_pos h
    · rw [TableRows.applyEntry, if_neg h1, if_neg h2]

/-- What a LOAD_OPEN that is heard answers (R133). -/
theorem serveLoadOpen_eq (t : TableId) (m : LoadMethod) (s : State) : serveLoadOpen [byte t.code, byte m.code] s =
    if s.tb.pendingCommit.isSome then refuse .busy s
    else accept [byte t.code, byte m.code, byte (s.tb.abandon.startRows t m).count] (s.setTb (s.tb.abandon.openLoad t m)) := by
  unfold serveLoadOpen
  simp only [TableId.ofCode_byte, LoadMethod.ofCode_byte]

/-- Settles O57: entries, the Table Store's operations, and the requests by what their owner answers. -/
theorem loadRequests : Obligations.LoadRequests := by
  refine ⟨fun rows op index row => ⟨fun h1 h2 => ?_, fun h => ?_, fun hop h => ?_, fun hop h => ?_⟩,
    fun α t i j r => ⟨?_, ?_⟩, fun tb h => ?_, fun tb l h => ?_, fun s hlive => ?_, fun s a h => ?_⟩
  · rw [TableRows.applyEntry, if_neg h1, if_neg h2]
  · exact TableRows.applyEntry_outside row ((rows.capacity_eq).trans_le h)
  · rw [TableRows.applyEntry_put row hop]
    have hcap : ¬ rows.table.capacity ≤ index.toNat := Nat.not_le.2 (lt_of_lt_of_eq h rows.capacity_eq.symm)
    cases rows <;> exact if_neg hcap
  · rw [TableRows.applyEntry_delete row hop]
    have hcap : ¬ rows.table.capacity ≤ index.toNat := Nat.not_le.2 (lt_of_lt_of_eq h rows.capacity_eq.symm)
    cases rows <;> exact if_neg hcap
  · rw [Keyed.get_put]; simp only [eq_comm]
  · rw [Keyed.get_del]; simp only [eq_comm]
  · simp only [TableStore.abandon, h]
  · unfold TableStore.abandon
    simp only [h]
    cases l.prior <;> rfl
  · exact event_live hlive
  · have opened : ∀ (p : List Byte) (ans : Answer), p.length = 2 → serveLoadOpen p s = ans →
        exec (.loadOpen a p) s = .next (answeredWith a 0x50 ans.status ans.payload ans.state) := fun p ans hp hserve =>
      exec_answered (r := .loadOpen) h p _ _ (Request.lengthFits_iff.2 ⟨hp.ge, hp.le⟩) (by omega) (by simp) hserve
    have loaded : ∀ (p : List Byte) (ans : Answer), p.length ≤ 240 → serveLoadRows p s = ans →
        exec (.loadRows a p) s = .next (answeredWith a 0x51 ans.status ans.payload ans.state) := fun p ans hp hserve =>
      exec_answered (r := .loadRows) h p _ _ (Request.lengthFits_iff.2 ⟨Nat.zero_le _, hp⟩) hp (by simp) hserve
    have closed : ∀ ans : Answer, serveLoadClose [] s = ans →
        exec (.loadClose a []) s = .next (answeredWith a 0x52 ans.status ans.payload ans.state) := fun ans hserve =>
      exec_answered (r := .loadClose) h [] _ _ rfl (by simp) (by simp) hserve
    have abandoned : ∀ ans : Answer, serveLoadAbandon [] s = ans →
        exec (.loadAbandon a []) s = .next (answeredWith a 0x53 ans.status ans.payload ans.state) := fun ans hserve =>
      exec_answered (r := .loadAbandon) h [] _ _ rfl (by simp) (by simp) hserve
    refine ⟨fun table method hbad => opened _ (refuse .badField s) rfl ?_, fun t m => ?_,
      fun hnone p hp => loaded p (refuse .notOpen s) hp ?_,
      fun hnone => ⟨closed (refuse .notOpen s) ?_, abandoned (refuse .notOpen s) ?_⟩, fun l hl => ⟨?_, ?_, fun p hp hcut => ?_,
        fun p before e after rows hp hcut hbefore he => ?_, fun p es rows hp hcut hrows => ?_⟩⟩
    · unfold serveLoadOpen
      rcases hbad with hbad | hbad
      · simp only [TableId.ofCode_gt hbad]
      · simp only [LoadMethod.ofCode_gt hbad]
        cases TableId.ofCode table.toNat <;> rfl
    · intro base rows prior
      have hrows : base.startRows t m = rows := by
        cases m with
        | replace => rfl
        | patch => simp only [rows, TableStore.startRows]; cases base.staged.copy t <;> rfl
      have hprior : (base.staged.copy t).rows? = prior := by
        simp only [prior]; cases base.staged.copy t <;> rfl
      refine ⟨fun hpending => opened _ (refuse .busy s) rfl ?_, fun hpending => ?_⟩
      · rw [serveLoadOpen_eq, if_pos (Option.isSome_iff_ne_none.2 hpending)]
      · have hserve := serveLoadOpen_eq t m s
        rw [if_neg (by simp [hpending])] at hserve
        rw [opened _ _ rfl hserve, ← hrows, ← hprior]
        rfl
    · simp only [serveLoadRows, hnone]
    · simp only [serveLoadClose, hnone]
    · simp [serveLoadAbandon, hnone]
    · exact closed (accept [byte l.working.table.code, byte l.working.count] (s.setTb (s.tb.closeLoad l)))
        (by simp only [serveLoadClose, hl])
    · exact abandoned (accept [] (abandonLoad s)) (by simp [serveLoadAbandon, hl])
    · exact loaded p (refuse .badLength s) hp (by simp only [serveLoadRows, hl, hcut])
    · have happly := applyEntries_error before e after 1 l.working rows hbefore he
      rw [Nat.add_comm] at happly
      exact loaded p (refuseWith .badField [byte (before.length + 1)] s) hp (by simp only [serveLoadRows, hl, hcut, happly])
    · have happly := applyEntries_ok es 1 l.working rows hrows
      exact loaded p (accept [byte rows.count] (s.setTb { s.tb with load := some { l with working := rows } })) hp
        (by simp only [serveLoadRows, hl, hcut, happly])

/-! ### The relay requests -/

theorem timeoutInRange_mul_iff {n : Nat} : timeoutInRange (10 * n) = true ↔ 1 ≤ n ∧ n ≤ 25 := by
  simp only [timeoutInRange, Bool.and_eq_true, decide_eq_true_eq]
  omega

theorem hasRelayRow_iff {rows : Keyed PollRow} : hasRelayRow rows = true ↔ ∃ e ∈ rows, e.2 = .relay := by
  simp only [hasRelayRow, List.any_eq_true]
  refine exists_congr fun e => and_congr_right fun _ => ?_
  cases e.2 <;> simp [PollRow.node?]

/-- The place of a tag: in the queue, in flight, or among the results, the first that holds it (R152). -/
theorem RelayState.place_eq (ru : RelayState) (tag : Nat) : ru.place tag =
    if ∃ q ∈ ru.queue, q.tag = tag then .queued
    else if ∃ q ∈ ru.inFlight, q.tag = tag then .inFlight
    else if ∃ r ∈ ru.results, r.tag = tag then .result
    else .nowhere := by
  unfold RelayState.place
  simp only [List.any_eq_true, Option.any_eq_true, beq_iff_eq, Option.mem_def]

/-- The code of a tag's place (R194). -/
theorem RelayState.place_code (ru : RelayState) (tag : Nat) :
    ((∃ q ∈ ru.queue, q.tag = tag) → (ru.place tag).code = 1) ∧
    ((¬ ∃ q ∈ ru.queue, q.tag = tag) → (∃ q ∈ ru.inFlight, q.tag = tag) → (ru.place tag).code = 2) ∧
    ((¬ ∃ q ∈ ru.queue, q.tag = tag) → (¬ ∃ q ∈ ru.inFlight, q.tag = tag) → (∃ r ∈ ru.results, r.tag = tag) →
      (ru.place tag).code = 3) ∧
    ((¬ ∃ q ∈ ru.queue, q.tag = tag) → (¬ ∃ q ∈ ru.inFlight, q.tag = tag) → (¬ ∃ r ∈ ru.results, r.tag = tag) →
      (ru.place tag).code = 0) := by
  rw [ru.place_eq]
  refine ⟨fun h => ?_, fun h1 h2 => ?_, fun h1 h2 h3 => ?_, fun h1 h2 h3 => ?_⟩
  · rw [if_pos h]; rfl
  · rw [if_neg h1, if_pos h2]; rfl
  · rw [if_neg h1, if_neg h2, if_pos h3]; rfl
  · rw [if_neg h1, if_neg h2, if_neg h3]; rfl

theorem RelayState.place_nowhere (ru : RelayState) (tag : Nat) : ru.place tag = .nowhere ↔
    (¬ ∃ q ∈ ru.queue, q.tag = tag) ∧ (¬ ∃ q ∈ ru.inFlight, q.tag = tag) ∧ ¬ ∃ r ∈ ru.results, r.tag = tag := by
  rw [ru.place_eq]
  split
  · exact iff_of_false (by simp) fun h => h.1 ‹_›
  · split
    · exact iff_of_false (by simp) fun h => h.2.1 ‹_›
    · split
      · exact iff_of_false (by simp) fun h => h.2.2 ‹_›
      · exact iff_of_true rfl ⟨‹_›, ‹_›, ‹_›⟩

theorem relayResultBytes_eq (r : RelayResult) : relayResultBytes r =
    [byte r.tag, byte r.node, byte r.outcome.code, byte (codeOr255 ReplyKind.code r.replyKind), byte (codeOr255 lineCode r.line),
      byte (16 * r.outcomeA.code + r.outcomeB.code), byte (r.faultCode.getD 0), byte (r.completionCycle.toNat / 256),
      byte (r.completionCycle.toNat % 256), byte r.payload.length] ++ r.payload := by
  rw [relayResultBytes, wordBytes_eq]
  rfl

/-- What a RELAY_SEND that is heard answers, check by check (R152, R153). -/
theorem serveRelaySend_eq (tag node timeout : Byte) (bytes : List Byte) (s : State) :
    serveRelaySend (tag :: node :: timeout :: bytes) s =
      if bytes = [] ∨ 32 < bytes.length then refuse .badLength s
      else if nodeInRange node.toNat = false ∨ timeoutInRange (10 * timeout.toNat) = false then refuse .badField s
      else if s.mc.mode = .idle then refuse .wrongMode s
      else if hasRelayRow s.tb.active.poll = false then refuse .noSlot s
      else if s.ru.place tag.toNat ≠ .nowhere then refuseWith .busy [byte (s.ru.place tag.toNat).code] s
      else if Config.relayQueue ≤ s.ru.queue.length then refuse .full s
      else accept [byte (s.ru.queue.length + 1)] (s.setRu { s.ru with queue := s.ru.queue ++
        [{ tag := tag.toNat, node := node.toNat, replyTimeout := 10 * timeout.toNat, payload := bytes }] }) := rfl

theorem serveRelayCollect_found {selector tag : Byte} {sel : Option Nat} {r : RelayResult} {s : State}
    (hsel : collectSelector selector tag = some sel) (hr : s.ru.find sel = some r) :
    serveRelayCollect [selector, tag] s = accept (collectPayload r (s.ru.results.erase r).length s.ru.queue.length)
      (s.setRu { s.ru with results := s.ru.results.erase r }) := by
  simp only [serveRelayCollect, hsel, hr]

/-- Settles O60: the result's bytes, and the two requests' checks in their order. -/
theorem relayRequests : Obligations.RelayRequests := by
  refine ⟨fun r => ?_, fun s a h => ⟨fun tag node timeout bytes hlen => ?_, fun selector tag hs => ?_, fun tag hnone => ?_,
    fun tag r rest hr => ?_, fun tag hdone => ?_, fun tag r front back hr htag hfront => ?_⟩⟩
  · intro outcome
    have houtcome : ∀ o : LineOutcome, o.code = outcome o := fun o => by cases o <;> rfl
    rw [relayResultBytes_eq, houtcome, houtcome]
    refine congrArg (fun l => l ++ r.payload) (congrArg₂ List.cons rfl (congrArg₂ List.cons rfl (congrArg₂ List.cons ?_
      (congrArg₂ List.cons ?_ (congrArg₂ List.cons ?_ rfl)))))
    · cases r.outcome <;> rfl
    · rcases r.replyKind with _ | k
      · rfl
      · cases k <;> rfl
    · rcases r.line with _ | l
      · rfl
      · cases l <;> rfl
  · intro sent fits ranges slot free
    have answered : ∀ ans : Answer, serveRelaySend (tag :: node :: timeout :: bytes) s = ans →
        sent = .next (answeredWith a 0x60 ans.status ans.payload ans.state) := fun ans hserve => by
      have hp : 3 ≤ (tag :: node :: timeout :: bytes).length ∧ (tag :: node :: timeout :: bytes).length ≤ 240 := by
        simp only [List.length_cons]; omega
      exact exec_answered (r := .relaySend) h _ _ _ (Request.lengthFits_iff.2 hp) hp.2 (by simp) hserve
    have hfits : (bytes = [] ∨ 32 < bytes.length) ↔ ¬ fits := by
      rw [← List.length_eq_zero_iff]; simp only [fits]; omega
    have hranges : (nodeInRange node.toNat = false ∨ timeoutInRange (10 * timeout.toNat) = false) ↔ ¬ ranges := by
      rw [← Bool.not_eq_true, ← Bool.not_eq_true, nodeInRange_iff, timeoutInRange_mul_iff]; simp only [ranges]; omega
    have hslot : hasRelayRow s.tb.active.poll = false ↔ ¬ slot := by rw [← Bool.not_eq_true, hasRelayRow_iff]
    have hfree : s.ru.place tag.toNat ≠ .nowhere ↔ ¬ free := not_congr (s.ru.place_nowhere _)
    have serve := serveRelaySend_eq tag node timeout bytes s
    simp only [hfits, hranges, hslot, hfree] at serve
    refine ⟨fun h1 => ?_, fun h1 h2 => ?_, fun h1 h2 h3 => ?_, fun h1 h2 h3 h4 => ?_, fun h1 h2 h3 h4 h5 => ?_,
      fun h1 h2 h3 h4 h5 h6 => ?_, fun h1 h2 h3 h4 h5 h6 => ?_⟩
    · exact answered (refuse .badLength s) (by rw [serve, if_pos h1])
    all_goals rw [if_neg (not_not.2 h1)] at serve
    · exact answered (refuse .badField s) (by rw [serve, if_pos h2])
    all_goals rw [if_neg (not_not.2 h2)] at serve
    · exact answered (refuse .wrongMode s) (by rw [serve, if_pos h3])
    all_goals rw [if_neg h3] at serve
    · exact answered (refuse .noSlot s) (by rw [serve, if_pos h4])
    all_goals rw [if_neg (not_not.2 h4)] at serve
    · exact ⟨_, s.ru.place_code tag.toNat, answered (refuseWith .busy _ s) (by rw [serve, if_pos h5])⟩
    all_goals rw [if_neg (not_not.2 h5)] at serve
    · exact answered (refuse .full s) (serve.trans (if_pos h6))
    · exact answered (accept _ _) (serve.trans (if_neg (Nat.not_le.2 h6)))
  all_goals
    have answered : ∀ (selector tag : Byte) (ans : Answer), serveRelayCollect [selector, tag] s = ans →
        exec (.relayCollect a [selector, tag]) s = .next (answeredWith a 0x61 ans.status ans.payload ans.state) :=
      fun selector tag ans hserve => exec_answered (r := .relayCollect) h [selector, tag] _ _ rfl (by simp) (by simp) hserve
  · have hsel : collectSelector selector tag = none := by
      rw [collectSelector, if_neg (by omega), if_neg (by omega)]
    exact answered selector tag (refuse .badField s) (by simp only [serveRelayCollect, hsel])
  · have hfind : s.ru.find none = none := by rw [RelayState.find, hnone]; rfl
    exact answered 1 tag (refuseWith .notFound [0] s) (by
      change (match s.ru.find none with | none => _ | some r => _) = _
      rw [hfind]; rfl)
  · have hfind : s.ru.find none = some r := by rw [RelayState.find, hr]; rfl
    have serve := serveRelayCollect_found (selector := 1) (tag := tag) rfl hfind
    rw [answered 1 tag _ serve, hr, List.erase_cons_head]
    rfl
  · have hfind : s.ru.find (some tag.toNat) = none := by
      simp only [RelayState.find, List.find?_eq_none]
      exact fun x hx he => hdone ⟨x, hx, by simpa using he⟩
    exact ⟨_, s.ru.place_code tag.toNat, answered 0 tag (refuseWith .notFound [byte (s.ru.place tag.toNat).code] s) (by
      change (match s.ru.find (some tag.toNat) with | none => _ | some r => _) = _
      rw [hfind])⟩
  · have hfind : s.ru.find (some tag.toNat) = some r := by
      have hnone : front.find? (fun x => x.tag == tag.toNat) = none :=
        List.find?_eq_none.2 fun x hx => by simpa using hfront x hx
      simp only [RelayState.find, hr, List.find?_append, hnone, Option.none_or]
      exact List.find?_cons_of_pos (by simpa using htag)
    have serve := serveRelayCollect_found (selector := 0) (tag := tag) rfl hfind
    have hnot : r ∉ front := fun hmem => hfront r hmem htag
    rw [answered 0 tag _ serve, hr, List.erase_append_right _ hnot, List.erase_cons_head]
    rfl

end Sys2Proof.Machine

/-! SUPPORT. The requests that read and those of the summary and the alerts, and the layouts of their records (R193 to R199): the
statements O54 and O56. -/

namespace Sys2Proof.Machine

/-! ### Fields of a record -/

theorem wordBytes_eq_int (h : Half) :
    wordBytes h = [byte ((h.toNat : Int) % 65536 / 256).toNat, byte ((h.toNat : Int) % 256).toNat] := by
  rw [wordBytes_eq]
  have := h.isLt
  congr 1
  congr 1; omega

theorem bitAt_eq (k : Nat) (b : Bool) : bitAt k b = if b = true then 2 ^ k else 0 := rfl

theorem presentBytes_eq {α : Type} (f : α → List Byte) (o : Option α) : presentBytes f o = o.elim [] f := by
  cases o <;> rfl

/-- The sixteen-bit fields of an optional cycle number, zero when it is absent (R193). -/
theorem cycleBytes_eq (o : Option Half) : wordBytes (o.getD 0) =
    [byte ((o.elim 0 fun c => (c.toNat : Int)) % 65536 / 256).toNat, byte ((o.elim 0 fun c => (c.toNat : Int)) % 256).toNat] := by
  cases o with
  | none => rfl
  | some c => exact wordBytes_eq_int c

/-- The byte that carries a line, FFh when it is absent (R193, R194). -/
def lineByte : Option Line → Byte
  | some .a => 0
  | some .b => 1
  | none => 0xFF

theorem lineByte_eq (o : Option Line) : byte (codeOr255 lineCode o) = lineByte o := by
  rcases o with _ | l
  · rfl
  · cases l <;> rfl

/-! ### The records of the summary and the alerts (R198) -/

theorem levelByte_eq (l : Level) (blind : Bool) : levelByte l blind = byte ((match l with
    | .clear => 1
    | .watch => 2
    | .near => 3
    | .wet => 4) + if blind = true then 2 ^ 7 else 0) := by
  cases l <;> rfl

theorem zoneRecordBytes_eq (zone : Nat) (r : ZoneRecord) : zoneRecordBytes zone r =
    [byte zone, levelByte r.level r.blind, byte r.unknownCount, byte r.clearCount, byte r.watchCount, byte r.nearCount,
      byte r.wetCount] ++ r.worst.elim [0, 0, 0xFF] (fun w => intBytes w.margin ++ [byte w.pair]) := by
  unfold zoneRecordBytes
  cases r.worst <;> rfl

/-- A batch goes on to the next record, or closes the sequence after the last (R122, R123). -/
theorem takeBatch_final {position : Nat} {s : State} (h : s.zm.bank.records.length ≤ position + 8) :
    takeBatch position s = closeSummary s := if_pos (decide_eq_true h)

theorem takeBatch_more {position : Nat} {s : State} (h : position + 8 < s.zm.bank.records.length) :
    takeBatch position s = s.setZm { s.zm with summary := { s.zm.summary with nextRecord := position + 8 } } :=
  if_neg (by simpa [batchIsFinal] using h)

/-- Settles O56: the records' layouts, and the requests by the sequence's state. -/
theorem summaryAndAlerts : Obligations.SummaryAndAlerts := by
  refine ⟨?_, fun s a h => ?_⟩
  · intro two flag level summary
    have hint : ∀ i : Int, intBytes i = two i := intBytes_eq
    have hword : ∀ c : Half, wordBytes c = two c.toNat := wordBytes_eq_int
    have hlevel : ∀ l blind, levelByte l blind = level l blind := levelByte_eq
    refine ⟨fun bank position held => ?_, fun x => ?_⟩
    · intro batch
      have hrecord : (fun e : Nat × ZoneRecord => zoneRecordBytes e.1 e.2) = summary := by
        funext e
        simp only [zoneRecordBytes_eq, hlevel, hint, summary]
      simp only [summaryPayload, hrecord, cycleBytes_eq]
      rfl
    · simp only [alertBytes, hword, hlevel]
  · intro q closedBank closed
    have opens : ∀ ans : Answer, serveSummaryOpen [] s = ans →
        exec (.summaryOpen a []) s = .next (answeredWith a 0x40 ans.status ans.payload ans.state) := fun ans hserve =>
      exec_answered (r := .summaryOpen) h [] _ _ rfl (by simp) (by simp) hserve
    have next : ∀ ans : Answer, serveSummaryNext [] s = ans →
        exec (.summaryNext a []) s = .next (answeredWith a 0x41 ans.status ans.payload ans.state) := fun ans hserve =>
      exec_answered (r := .summaryNext) h [] _ _ rfl (by simp) (by simp) hserve
    have closes : ∀ ans : Answer, serveSummaryClose [] s = ans →
        exec (.summaryClose a []) s = .next (answeredWith a 0x42 ans.status ans.payload ans.state) := fun ans hserve =>
      exec_answered (r := .summaryClose) h [] _ _ rfl (by simp) (by simp) hserve
    have hclosed : closeSummary s = closed := closeSummary_eq s
    refine ⟨fun ho => opens (refuse .busy s) (if_pos ho), fun ho => ?_, fun ho hmore => next (accept _ _) ?_,
      fun ho hfinal => next (accept _ _) ?_, fun ho => closes (accept [] closed) ?_, fun ho hb => ?_, fun ho hb => ?_, ?_⟩
    · have hopen : ¬ s.zm.summary.isOpen = true := by rw [ho]; simp
      refine opens (accept _ _) ((if_neg hopen).trans ?_)
      congr 1
      by_cases h8 : 8 < s.zm.bank.records.length
      · rw [takeBatch_more (by simpa using h8)]
        simp [h8]
        rfl
      · rw [takeBatch_final (by simpa using Nat.not_lt.1 h8), closeSummary_eq]
        simp [h8]
        rfl
    · rw [serveSummaryNext, if_pos ho, takeBatch_more hmore]; rfl
    · rw [serveSummaryNext, if_pos ho, takeBatch_final hfinal, hclosed]; rfl
    · rw [serveSummaryClose, if_pos ho, hclosed]
    · intro told
      have hopen : ¬ s.zm.summary.isOpen = true := by rw [ho]; simp
      have htold : summaryNotOpen s = refuse .broken told := if_pos hb
      exact ⟨next _ ((if_neg hopen).trans htold), closes _ ((if_neg hopen).trans htold)⟩
    · have hopen : ¬ s.zm.summary.isOpen = true := by rw [ho]; simp
      have htold : summaryNotOpen s = refuse .notOpen s := if_neg (by rw [hb]; simp)
      exact ⟨next _ ((if_neg hopen).trans htold), closes _ ((if_neg hopen).trans htold)⟩
    · exact exec_answered (r := .takeAlerts) h [] _ .ok rfl (by simp) (by simp) rfl

/-! ### The requests that read -/

theorem flagOf_zero : flagOf 0 = some false := rfl
theorem flagOf_one : flagOf 1 = some true := rfl

/-- Settles O54: the requests' checks and payloads, the records' layouts, and the codes. -/
theorem readsChangeNothing : Obligations.ReadsChangeNothing := by
  refine ⟨fun s a h => ?_, fun s k => ?_, ?_, by decide +kernel⟩
  · have report : ∀ (first count : Byte) (ans : Answer), serveLineReport [first, count] s = ans →
        exec (.lineReport a [first, count]) s = .next (answeredWith a 0x10 ans.status ans.payload ans.state) :=
      fun first count ans hserve => exec_answered (r := .lineReport) h [first, count] _ _ rfl (by simp) (by simp) hserve
    have readings : ∀ (first count : Byte) (ans : Answer), serveReadReadings [first, count] s = ans →
        exec (.readReadings a [first, count]) s = .next (answeredWith a 0x20 ans.status ans.payload ans.state) :=
      fun first count ans hserve => exec_answered (r := .readReadings) h [first, count] _ _ rfl (by simp) (by simp) hserve
    have pairs : ∀ (first count : Byte) (ans : Answer), serveReadPairs [first, count] s = ans →
        exec (.readPairs a [first, count]) s = .next (answeredWith a 0x30 ans.status ans.payload ans.state) :=
      fun first count ans hserve => exec_answered (r := .readPairs) h [first, count] _ _ rfl (by simp) (by simp) hserve
    have table : ∀ (table copy first count : Byte) (ans : Answer), serveReadTable [table, copy, first, count] s = ans →
        exec (.readTable a [table, copy, first, count]) s = .next (answeredWith a 0x55 ans.status ans.payload ans.state) :=
      fun table copy first count ans hserve =>
        exec_answered (r := .readTable) h [table, copy, first, count] _ _ rfl (by simp) (by simp) hserve
    refine ⟨exec_answered (r := .status) h [] _ .ok rfl (by simp) (by simp) rfl, ?_,
      exec_answered (r := .forceList) h [] _ .ok rfl (by simp) (by simp) rfl, fun first count h1 h2 h3 h4 => report _ _ (accept _ s) ?_,
      fun first count hbad => report _ _ (refuse .badField s) (if_neg ?_), fun first count h1 h2 h3 => readings _ _ (accept _ s) (if_pos ⟨h1, h2, h3⟩),
      fun first count hbad => readings _ _ (refuse .badField s) (if_neg ?_), fun first count h1 h2 h3 => pairs _ _ (accept _ s) (if_pos ⟨h1, h2, h3⟩),
      fun first count hbad => pairs _ _ (refuse .badField s) (if_neg ?_), fun t first count h1 h2 h3 => ⟨?_, ?_⟩,
      fun tbl copy first count hbad => table _ _ _ _ (refuse .badField s) ?_⟩
    · have hident : identDescriptor = [0x01, 0x05, 0x57, 0x44, 0x0D, 0x40, 0x01, 0x02, 0x07, 0x60, 0x80, 0x40, 0x20, 0x10, 0x08, 0x08,
        0x03, 0x01, 0x01, 0xFF, 0x02, 0xAD, 0x90] := by decide +kernel
      rw [← hident]
      exact exec_answered (r := .ident) h [] _ .ok rfl (by simp) (by simp) rfl
    · rw [serveLineReport, if_pos ⟨nodeInRange_iff.2 ⟨h1, h2⟩, h3, h4⟩]
      simp only [bitAt_eq, decide_eq_true_eq]
      rfl
    · rintro ⟨hn, hc1, hc8⟩
      obtain ⟨hn1, hn126⟩ := nodeInRange_iff.1 hn
      omega
    · simp only [Config.channels]; omega
    · simp only [Config.pairs]; omega
    · refine table (byte t.code) 0 first count (accept _ s) ?_
      simp only [serveReadTable, TableId.ofCode_byte, flagOf_zero]
      exact if_pos ⟨h1, h2, h3⟩
    · refine table (byte t.code) 1 first count (accept _ s) ?_
      simp only [serveReadTable, TableId.ofCode_byte, flagOf_one]
      refine (if_pos ⟨h1, h2, h3⟩).trans (congrArg (fun bytes => accept (byte (s.tb.staged.copy t).code :: bytes) s) ?_)
      unfold readCopy
      cases s.tb.staged.copy t <;> cases s.tb.load <;> rfl
    · have hout : ∀ (t : TableId) (staged : Bool), TableId.ofCode tbl.toNat = some t → flagOf copy = some staged →
          ¬ (1 ≤ count.toNat ∧ count.toNat ≤ 8 ∧ first.toNat + count.toNat ≤ t.capacity) := by
        rintro t staged ht hs ⟨hc1, hc8, hrange⟩
        rcases hbad with hb | hb | hb | hb | ⟨u, hu, hcap⟩
        · rw [TableId.ofCode_gt hb] at ht; cases ht
        · rw [flagOf_none hb] at hs; cases hs
        · omega
        · omega
        · rw [hu, TableId.ofCode_byte] at ht
          cases ht
          omega
      rw [serveReadTable]
      cases ht : TableId.ofCode tbl.toNat with
      | none => rfl
      | some t =>
        cases hs : flagOf copy with
        | none => rfl
        | some staged => exact if_neg (hout t staged ht hs)
  · intro two flag line kind quality outcome reply risk
    have hint : ∀ i : Int, intBytes i = two i := intBytes_eq
    have hnat : ∀ n : Nat, natBytes n = two n := natBytes_eq_int
    have hkind : ∀ k : ProbeKind, byte k.code = kind k := by rintro (_ | _ | _) <;> rfl
    have hquality : ∀ q : Quality, byte q.code = quality q := by rintro (_ | _ | _ | _ | _ | _) <;> rfl
    have houtcome : ∀ o, outcomeNibble o = outcome o := by rintro (_ | _ | _ | _ | _ | _ | _ | _) <;> rfl
    have hreply : ∀ o, byte (codeOr255 ReplyKind.code o) = reply o := by rintro (_ | _ | _ | _ | _) <;> rfl
    have hrisk : ∀ r : RiskState, (r.code, r.reasonCode) = risk r := by rintro ((_ | _ | _ | _ | _ | _ | _) | (_ | _ | _ | _)) <;> rfl
    refine ⟨fun hrow => ?_, fun row r hrow hr => ?_, fun r => ?_, fun hrow => ?_, fun row r hrow hr => ?_,
      fun rows => ⟨fun bytes hb => ?_, fun hb => ?_⟩, fun c => ?_⟩
    · simp only [readingRecord, hrow]; rfl
    · have hreading : s.reading k = r := by simp [State.reading, hr]
      simp only [readingRecord, hrow, hreading, hkind, hquality, hint, cycleBytes_eq, lineByte_eq]
      cases r.marked <;> rfl
    · simp only [nodeRecordBytes, hnat, houtcome, hreply, nibbles]
      rfl
    · simp only [pairRecordBytes, hrow]
    · have h1 : ∀ r : RiskState, r.code = (risk r).1 := fun r => by rw [← hrisk]
      have h2 : ∀ r : RiskState, r.reasonCode = (risk r).2 := fun r => by rw [← hrisk]
      have hword : wordBytes = fun c : Half => two c.toNat := funext wordBytes_eq_int
      have hints : intBytes = two := funext hint
      simp only [pairRecordBytes, hrow, hr, Option.getD_some, presentBytes_eq, h1, h2, nibbles, List.isEmpty_iff, hword, hints]
      rfl
    · simp only [tableEntry, hb]; rfl
    · simp only [tableEntry, hb]; rfl
    · obtain ⟨h1, h2, h3, h4, h5⟩ := isReady_copy c
      simp only [StagedTables.readySet, h1, h2, h3, h4, h5]
      rfl
  · refine ⟨by decide, by decide, by decide, by decide, by decide, by decide, fun rows => rfl, by decide⟩

end Sys2Proof.Machine

/-! SUPPORT. Stage 2 of the arithmetic and its inversion by stage 4 (R68, R69, R73): the statement O29. -/

namespace Sys2Proof.Machine

theorem knotRise_ge {j : Nat} (hj : j ≤ 10) : 1350 ≤ knotRise j := by
  have table : ∀ j ≤ 10, 1350 ≤ knotRise j := by decide
  exact table j hj

theorem knotTemp_lt_of_lt {ta : Int} (hlo : -1000 ≤ ta) (hhi : ta < 4500) : ta < knotTemp (satInterval ta) + 500 := by
  unfold satInterval knotTemp
  omega

/-- Two roundings to the nearest that undo each other differ by less than one. -/
theorem eq_of_nearest {rise off y d : Int} (hrise : 1350 ≤ rise) (h1 : 2 * (rise * off) - 500 < 2 * 500 * d)
    (h2 : 2 * 500 * d ≤ 2 * (rise * off) + 500) (h3 : 2 * (500 * d) - rise < 2 * rise * y)
    (h4 : 2 * rise * y ≤ 2 * (500 * d) + rise) :
    y = off := by
  have hlt : rise * (y - off) < rise * 1 := by linarith only [hrise, h2, h4, mul_sub rise y off]
  have hgt : rise * (off - y) < rise * 1 := by linarith only [hrise, h1, h3, mul_sub rise off y]
  have hlt' := lt_of_mul_lt_mul_left hlt (by omega)
  have hgt' := lt_of_mul_lt_mul_left hgt (by omega)
  omega

/-- Stage 4 undoes stage 2 on the temperatures the part judges. -/
theorem dewLookup_satPressure {ta : Int} (hlo : -1000 ≤ ta) (hhi : ta ≤ 4500) : dewLookup (satPressure ta) = ta := by
  have hk := satInterval_le ta
  have hrise := knotRise_ge hk
  obtain ⟨hoff, hoff'⟩ := satInterval_offset hlo hhi
  obtain ⟨hsat, hsat'⟩ := satPressure_between hlo hhi
  have heq := satPressure_eq ta
  obtain ⟨hn, hn'⟩ := halfUp_nearest (d := 500) (knotRise (satInterval ta) * (ta - knotTemp (satInterval ta))) (by omega)
  have hd : halfUp (knotRise (satInterval ta) * (ta - knotTemp (satInterval ta))) 500 =
      satPressure ta - knot (satInterval ta) := by omega
  rw [hd] at hn hn'
  obtain hlt | hlast := hsat'.lt_or_eq
  · rw [dewLookup_of_onInterval ⟨hk, hsat, hlt⟩]
    obtain ⟨hm, hm'⟩ := halfUp_nearest (500 * (satPressure ta - knot (satInterval ta))) (knotRise_pos hk)
    have := eq_of_nearest hrise hn hn' hm hm'
    omega
  · rw [hlast, dewLookup_knot (by omega), knotTemp_succ]
    have hup : satPressure ta - knot (satInterval ta) = knotRise (satInterval ta) := by unfold knotRise; omega
    rw [hup] at hn hn'
    have := eq_of_nearest (y := 500) hrise hn hn' (by linarith only [hrise]) (by linarith only [hrise])
    omega

theorem knotTemp_range {k : Nat} (hk : k ≤ 11) : -1000 ≤ knotTemp k ∧ knotTemp k ≤ 4500 := by
  unfold knotTemp
  omega

/-- Settles O29: stage 2 rounds to the nearest on the interval of the temperature, and stage 4 undoes it. -/
theorem saturationCurve : Obligations.SaturationCurve := by
  refine ⟨by decide, by decide, fun k => rfl, fun ta hlo hhi => ?_, fun k hk => ?_, fun ta tb hlo h hhi => satPressure_mono hlo h hhi⟩
  · obtain ⟨hoff, hoff'⟩ := satInterval_offset hlo hhi
    obtain ⟨hsat, hsat'⟩ := satPressure_between hlo hhi
    have heq := satPressure_eq ta
    obtain ⟨hn, hn'⟩ := halfUp_nearest (d := 500) (knotRise (satInterval ta) * (ta - knotTemp (satInterval ta))) (by omega)
    have hfirst := knot_le_of_le (Nat.zero_le (satInterval ta)) ((satInterval_le ta).trans (by decide))
    have hlast := knot_le_of_le (i := satInterval ta + 1) (j := 11) (by have := satInterval_le ta; omega) le_rfl
    rw [knot_zero] at hfirst
    rw [knot_last] at hlast
    have hdew : dewPoint ta 10000 = ta := by
      rw [dewPoint, vapourPressure_saturated, dewLookup_satPressure hlo hhi, min_self]
    refine ⟨satInterval_le ta, by omega, by omega, knotTemp_lt_of_lt hlo, ?_, ?_, by omega, by omega, by omega, by omega⟩
    · rw [heq]; linarith only [hn]
    · rw [heq]; linarith only [hn']
  · have table : ∀ k ≤ 11, satPressure (knotTemp k) = knot k := by decide
    exact table k hk

end Sys2Proof.Machine

/-! SUPPORT. The poll cycle's parts as wholes: the visits of a walk, a completion and the stop, and the opening of a cycle: the
statements O43, O40 and O48. -/

namespace Sys2Proof.Machine

/-! ### The walk (R26 to R29) -/

/-- The visits of rows one after the other, whatever becomes of each. -/
def visits (rows : Keyed PollRow) (s : State) : State := rows.foldl (fun s e => (visitRow e.1 e.2 s).1) s

/-- Rows that are all passed over leave the walk at those behind them. -/
theorem walkRows_append {front rows : Keyed PollRow} {s : State}
    (h : ∀ before x after, front = before ++ x :: after → (visitRow x.1 x.2 (visits before s)).2 = false) :
    walkRows (front ++ rows) s = walkRows rows (visits front s) := by
  induction front generalizing s with
  | nil => rfl
  | cons e front ih =>
    obtain ⟨position, row⟩ := e
    have hfirst : (visitRow position row s).2 = false := h [] (position, row) front rfl
    have hrest : walkRows (front ++ rows) (visitRow position row s).1 = walkRows rows (visits front (visitRow position row s).1) :=
      ih fun before x after heq => h ((position, row) :: before) x after (by rw [heq]; rfl)
    have hsplit : visitRow position row s = ((visitRow position row s).1, false) := Prod.ext rfl hfirst
    rw [List.cons_append, walkRows, hsplit]
    exact hrest

theorem walkRows_cons_sent {e : Nat × PollRow} {rows : Keyed PollRow} {s : State} (h : (visitRow e.1 e.2 s).2 = true) :
    walkRows (e :: rows) s = ((visitRow e.1 e.2 s).1, true) := by
  have hsplit : visitRow e.1 e.2 s = ((visitRow e.1 e.2 s).1, true) := Prod.ext rfl h
  rw [walkRows, hsplit]

theorem runWalk_sent {overrun : State → State} {s t : State} (h : walkRows s.rowsAhead s = (t, true)) : runWalk overrun s = t := by
  rw [runWalk, h]

theorem runWalk_completes {overrun : State → State} {s t : State} (h : walkRows s.rowsAhead s = (t, false)) :
    runWalk overrun s = cycleCompletion overrun t := by
  rw [runWalk, h]

theorem State.node_of_get {s : State} {node : Nat} {r : NodeRecord} (h : s.ti.nodes.get node = some r) : s.node node = r := by
  simp [State.node, h]

theorem outOfTurn_iff {cycle : Half} {interval : Nat} {r : NodeRecord} :
    outOfTurn cycle interval r = true ↔ r.quarantined = true ∧ ¬ interval ∣ cycle.toNat := by
  simp [outOfTurn, Nat.dvd_iff_mod_eq_zero]

/-- Settles O43: the rows in order by `walkRows_append`, and a visit by its own checks. -/
theorem rowVisits : Obligations.RowVisits := by
  refine ⟨fun front back e s => ?_, fun s p => ⟨fun hp => ?_, fun hp hw => ?_⟩,
    fun s t => ⟨runWalk_sent, runWalk_completes, runWalk_sent, runWalk_completes, by rw [cycleStart_ps]⟩, fun s position => ?_⟩
  · intro walked h
    refine ⟨?_, fun hsent => ?_⟩
    · have hall := walkRows_append (rows := []) h
      rw [List.append_nil] at hall
      exact hall
    · exact (walkRows_append h).trans (walkRows_cons_sent hsent)
  · rw [State.rowsAhead, hp]
  · rw [State.rowsAhead, hp]
    exact ⟨Keyed.wf_filter hw _, fun i row => by simp [and_comm]⟩
  · intro at'
    refine ⟨fun node timeout accept r hr hskip => ?_, fun node timeout accept r hr hskip hq hturn => ?_,
      fun node timeout accept r hr hskip hturn => ?_, fun q rest hqueue hheld => ?_, fun h => ?_⟩
    · have hnode : at'.node node = r := State.node_of_get hr
      exact if_pos (by rw [hnode]; exact hskip)
    · have hnode : at'.node node = r := State.node_of_get hr
      exact (if_neg (by rw [hnode]; omega)).trans (if_pos (by rw [hnode]; exact outOfTurn_iff.2 ⟨hq, hturn⟩))
    · have hnode : at'.node node = r := State.node_of_get hr
      have hin : ¬ outOfTurn s.ps.cycle s.tb.active.general.quarantineInterval r = true := by
        rw [outOfTurn_iff]
        rintro ⟨hq, hnot⟩
        rcases hturn with h | h
        · rw [hq] at h; cases h
        · exact hnot h
      subst hnode
      exact (if_neg (Nat.not_lt.2 hskip.le)).trans (if_neg hin)
    · have hq : at'.ru.queue = q :: rest := hqueue
      have hh : at'.ru.held < Config.relayResults := hheld
      simp only [visitRow]
      change visitRelay at' = _
      rw [visitRelay, hq]
      exact if_pos hh
    · simp only [visitRow]
      change visitRelay at' = _
      cases hq : s.ru.queue with
      | nil => have hq' : at'.ru.queue = [] := hq; rw [visitRelay, hq']
      | cons q rest =>
        have hq' : at'.ru.queue = q :: rest := hq
        have hh : ¬ at'.ru.held < Config.relayResults := by
          rcases h with h | h
          · rw [hq] at h; cases h
          · exact Nat.not_lt.2 h
        rw [visitRelay, hq']
        exact if_neg hh

/-! ### A completion and the stop (R30, R32) -/

theorem zoneCompletion_closed {s : State} (h : s.zm.summary.isOpen = false) : zoneCompletion s = publish s := if_neg (by simp [h])

theorem zoneCompletion_deferred {s : State} (ho : s.zm.summary.isOpen = true) (hheld : s.zm.summary.held < 4)
    (hmode : s.mc.mode ≠ .stopping) :
    zoneCompletion s = s.setZm { s.zm with summary := { s.zm.summary with held := s.zm.summary.held + 1 } } :=
  (if_pos ho).trans (if_neg (by rintro (h | h); exacts [hmode h, absurd hheld (Nat.not_lt.2 h)]))

theorem zoneCompletion_broken {s : State} (ho : s.zm.summary.isOpen = true) (h : 4 ≤ s.zm.summary.held ∨ s.mc.mode = .stopping) :
    zoneCompletion s = publish (s.setZm { s.zm with summary := { isOpen := false, nextRecord := 0, held := 0, broken := true } }) :=
  (if_pos ho).trans (if_pos h.symm)

/-- The walk position matters neither to the Zone Monitor's part in a completion nor to what that leaves of PS and MC. -/
theorem zoneCompletion_setPosition (s : State) :
    zoneCompletion (s.setPs { s.ps with position := none }) = (zoneCompletion s).setPs { s.ps with position := none } := by
  have h1 := zoneCompletion_congr (s := s) (t := s.setPs { s.ps with position := none }) rfl rfl rfl
  have h2 := zoneCompletion_congr (s := s) (t := s) rfl rfl rfl
  rw [h1]
  conv_rhs => rw [h2]
  rfl

theorem dropPair_fold (s : State) (e : Nat × PairRow) : dropPair e.1 e.2 .stopped s = match s.pe.pairs.get e.1 with
    | none => s
    | some r => match r.state with
      | .unknown _ => s
      | .judged _ => zoneNotice e.2.zone
          (s.setPe { s.pe with pairs := s.pe.pairs.put e.1 { r with state := .unknown .stopped, history := [], riseRun := 0, fallRun := 0 } }) := by
  unfold dropPair
  cases s.pe.pairs.get e.1 with
  | none => rfl
  | some r => rcases r with ⟨_ | _⟩ <;> rfl

theorem Reading.atStop_eq (r : Reading) : r.atStop =
    if r.quality = .good ∨ r.quality = .clamped ∨ r.quality = .forced then { r with quality := .stale, fresh := 0 } else r := by
  unfold Reading.atStop
  cases r.quality <;> rfl

theorem RiskState.level?_ne_none {r : RiskState} : r.level? ≠ none ↔ ∃ l, r = .judged l := by
  cases r <;> simp [RiskState.level?]

/-- The stop's part of the summary and the bank (R125, R126). -/
theorem stop_zm (s : State) : (stop s).zm.summary = (stopping s).zm.summary ∧ (stop s).zm.bank = (stopping s).zm.bank := by
  rw [stop_eq]
  have h := boundary_summary stopWork_only stopWork_summary (stopping s)
  exact ⟨h.2, h.1⟩

theorem boundary_none {work : State → State} {s : State} (h : s.tb.pendingCommit = none) : boundary work s = work s := by
  rcases boundary_cases work s with ⟨_, e⟩ | ⟨c, hc, _⟩
  · exact e
  · rw [h] at hc; cases hc

theorem stop_tb (s : State) : (s.tb.pendingCommit = none → (stop s).tb = s.tb) ∧
    (∀ c, s.tb.pendingCommit = some c → (stop s).tb = { s.tb with active := c, staged := {}, pendingCommit := none }) := by
  have h := boundary_tb stopWork_only (stopping s)
  rw [(stopping_keeps s).2.2.2.1] at h
  rw [stop_eq]
  exact h

theorem stopping_eq (s : State) : stopping s = { s with
    ps := { s.ps with phase := .halted, timer := .stopped, position := none }
    mc := { s.mc with mode := .idle }
    zm := if s.zm.summary.isOpen = true then
        { s.zm with
          bank := if 0 < s.zm.summary.held then { publicationCycle := some s.ps.cycle, records := s.zm.zones } else s.zm.bank
          summary := { isOpen := false, nextRecord := 0, held := 0, broken := true } }
      else s.zm } := by
  rw [stopping, breakSummary_eq]
  rfl

/-- Settles O40: a completion by the Zone Monitor's three branches and by PS's; the stop by its boundary. -/
theorem cycleCompletes : Obligations.CycleCompletes := by
  intro s overrun published halted stopped
  have hhalted : stopping s = halted := stopping_eq s
  have hafter : cycleCompletion overrun s = afterCompletion overrun ((zoneCompletion s).setPs { s.ps with position := none }) :=
    congrArg _ (zoneCompletion_setPosition s)
  have hmc : (zoneCompletion s).mc = s.mc := by
    have h := zoneCompletion_congr (s := s) (t := s) rfl rfl rfl
    rw [h]
    rfl
  obtain ⟨hstopPs, hstopMc⟩ := stop_ps_mc s
  obtain ⟨hstopRu, nodes, hstopTi⟩ := stop_ru_ti s
  obtain ⟨hsummary, hbank⟩ := stop_zm s
  obtain ⟨hnoneTb, hsomeTb⟩ := stop_tb s
  rw [hhalted] at hsummary hbank
  refine ⟨fun h => by rw [zoneCompletion_closed h]; rfl, fun ho hheld hmode => by rw [zoneCompletion_deferred ho hheld hmode]; rfl,
    fun ho h => by rw [zoneCompletion_broken ho h]; rfl, fun hmode => ?_, fun period hmode htimer => ?_, fun hmode htimer => ?_,
    hstopMc, hstopPs, hstopRu, by rw [hstopTi], ?_, (stop_takes s).load, ?_, ?_, ?_, fun hnone => ?_, fun c hc => ⟨?_, ?_⟩, rfl,
    fun k => ?_, ?_, fun p => ?_⟩
  · have hm : (zoneCompletion (s.setPs { s.ps with position := none })).mc.mode = .stopping := by
      rw [zoneCompletion_setPosition]
      exact (congrArg (·.mode) hmc).trans hmode
    exact if_pos hm
  · rw [hafter, afterCompletion, if_neg (by rw [State.setPs_mc, hmc, hmode]; decide)]
    rw [State.setPs_ps]
    simp only [htimer]
    rfl
  · rw [hafter, afterCompletion, if_neg (by rw [State.setPs_mc, hmc, hmode]; decide)]
    rw [State.setPs_ps]
    simp only [htimer, satSucc_eq_min]
    rfl
  · cases hp : s.tb.pendingCommit with
    | none => rw [hnoneTb hp, hp]
    | some c => rw [hsomeTb c hp]
  · rw [hsummary]
    cases ho : s.zm.summary.isOpen <;> simp [halted, ho]
  · rw [hsummary]
    cases ho : s.zm.summary.isOpen <;> simp [halted, ho]
  · rw [hbank]
    cases ho : s.zm.summary.isOpen <;> simp [halted, ho]
  · rw [stop_eq, hhalted, boundary_none (s := halted) hnone]
    rfl
  · exact hsomeTb c hc
  · rcases boundary_cases stopWork halted with ⟨h, _⟩ | ⟨d, hd, h⟩
    · exact absurd (h.symm.trans hc) (by simp)
    · have hcd : d = c := Option.some.inj (hd.symm.trans hc)
      rw [stop_eq, hhalted, ← hcd]
      exact h
  · have hreadings : (stopReadings s).si.readings.get k = (s.si.readings.get k).map Reading.atStop :=
      Keyed.get_mapRows s.si.readings (fun _ r => r.atStop) k
    rw [hreadings]
    exact congrArg (fun f => (s.si.readings.get k).map f) (funext Reading.atStop_eq)
  · exact congrArg (fun f => s.tb.active.pair.foldl f s) (funext fun u => funext fun e => dropPair_fold u e)
  · exact stopPairs_get s p

/-! ### The opening of a cycle (R23 to R26, R52, R143) -/

theorem Keyed.get_mapRows_const {α β : Type} (t : Keyed α) (f : α → β) (k : Nat) :
    (t.mapRows fun _ r => f r).get k = (t.get k).map f := Keyed.get_mapRows t (fun _ r => f r) k

/-- What a commit makes of Sample Intake (R55, R66). -/
theorem takeCommit_si (c : Tables) (s : State) : (takeCommit c s).si =
    { readings := c.probe.mapRows fun k _ =>
        (if rowChanged s.tb.active.probe c.probe k then none else s.si.readings.get k).getD {}
      forces := s.si.forces.filter fun e => forceKept s.tb.active.probe c.probe e.1 } := rfl

/-- A reading that a commit creates is not counted down, so commit and count-down have the same readings in either order. -/
theorem takeCommit_countDown_readings (c : Tables) {s t : State} (htb : t.tb = s.tb)
    (hreadings : t.si.readings = s.si.readings.mapRows fun _ r => r.countDown) (k : Nat) :
    (takeCommit c t).si.readings.get k = ((takeCommit c s).si.readings.get k).map Reading.countDown := by
  simp only [takeCommit_si, Keyed.get_mapRows, htb, hreadings]
  cases c.probe.get k with
  | none => rfl
  | some row =>
    cases rowChanged s.tb.active.probe c.probe k with
    | true => rfl
    | false => cases s.si.readings.get k <;> rfl

/-- The readings and the Force List after a cycle start, before or after the commit it takes (R52, R53). -/
theorem boundary_countDown_si (s : State) :
    let before : IntakeState := match s.tb.pendingCommit with
      | none => s.si
      | some c => (takeCommit c s).si
    (boundary countDown s).si.forces = before.forces ∧
    ∀ k, (boundary countDown s).si.readings.get k = (before.readings.get k).map Reading.countDown := by
  intro before
  rcases boundary_cases countDown s with ⟨hp, h⟩ | ⟨c, hp, h | h⟩
  · have hbefore : before = s.si := by simp only [before, hp]
    rw [h, hbefore, countDown_si]
    exact ⟨rfl, Keyed.get_mapRows_const _ _⟩
  · have hbefore : before = (takeCommit c s).si := by simp only [before, hp]
    rw [h, hbefore, countDown_si]
    exact ⟨rfl, Keyed.get_mapRows_const _ _⟩
  · have hbefore : before = (takeCommit c s).si := by simp only [before, hp]
    have htb : (countDown s.nextOrder).tb = s.tb := (countDown_only s.nextOrder).keeps.2.2.2.1
    have hsi := countDown_si s.nextOrder
    rw [h, hbefore]
    refine ⟨?_, takeCommit_countDown_readings c htb (by rw [hsi]; rfl)⟩
    simp only [takeCommit_si, htb, hsi]
    rfl

/-- A cycle start's own part in Sample Intake is its count-down's. -/
theorem cycleStart_si (s : State) : (cycleStart s).si =
    (boundary countDown (s.setPs { s.ps with cycle := s.ps.cycle + 1, phase := .walking, position := none })).si := rfl

theorem cycleStart_tb (s : State) : (s.tb.pendingCommit = none → (cycleStart s).tb = s.tb) ∧
    (∀ c, s.tb.pendingCommit = some c → (cycleStart s).tb = { s.tb with active := c, staged := {}, pendingCommit := none }) :=
  boundary_tb countDown_only (s.setPs { s.ps with cycle := s.ps.cycle + 1, phase := .walking, position := none })

/-- The readings that a count-down makes STALE (R52). -/
theorem mem_lost_iff {readings : Keyed Reading} (hw : Keyed.wf readings) (k : Nat) (q : Quality) :
    (k, q) ∈ (readings.filterMap fun e => if e.2.fresh = 1 then some (e.1, Quality.stale) else none) ↔
      q = .stale ∧ ∃ r, readings.get k = some r ∧ r.fresh = 1 := by
  simp only [List.mem_filterMap, Option.ite_none_right_eq_some, Option.some.injEq, Prod.mk.injEq]
  constructor
  · rintro ⟨⟨j, r⟩, hmem, hfresh, rfl, rfl⟩
    exact ⟨rfl, r, Keyed.get_of_mem hw hmem, hfresh⟩
  · rintro ⟨rfl, r, hr, hfresh⟩
    exact ⟨(k, r), Keyed.mem_of_get hr, hfresh, rfl, rfl⟩

theorem lost_pairwise {readings : Keyed Reading} (hw : Keyed.wf readings) :
    ((readings.filterMap fun e => if e.2.fresh = 1 then some (e.1, Quality.stale) else none).map
      fun e => e.1).Pairwise (· < ·) := by
  rw [List.pairwise_map, List.pairwise_filterMap]
  refine hw.imp fun {x y} hlt b hb b' hb' => ?_
  obtain ⟨_, hb⟩ := Option.ite_none_right_eq_some.1 hb
  obtain ⟨_, hb'⟩ := Option.ite_none_right_eq_some.1 hb'
  cases hb
  cases hb'
  exact hlt

/-- What a cycle's opening leaves in SURVEY: an exchange due at a row of the walk, or the cycle completed (R26, R30). -/
theorem openCycle_survey {s : State} (hmode : s.mc.mode = .survey) :
    Sent (cycleStart s).tb.active.poll (cycleStart s) (openCycle s) ∨
    ∃ u, Completed (cycleStart s) u ∧ openCycle s = u.setPs { u.ps with phase := .waiting } := by
  have hmode' : (cycleStart s).mc.mode ≠ .stopping := by rw [(cycleStart_keeps s).1, hmode]; decide
  have hend := openCycle_end id s
  revert hend
  generalize openCycle s = t
  intro hend
  cases hend with
  | sent _ h => exact .inl h
  | stopped u hu h => exact absurd h hmode'
  | overran u hu _ h => rw [cycleStart_ps] at h; cases h
  | waits u hu _ _ => exact .inr ⟨u, hu, rfl⟩

/-- Settles O48: the expiry by the phase, and a cycle's opening as its start with the walk that follows. -/
theorem cycleTimerExpires : Obligations.CycleTimerExpires := by
  have expiry : ∀ s : State, s.live = true → exec .cycleTimerExpiry s = .next (timerExpires s) := fun s hlive => event_live hlive
  refine ⟨fun s period hlive htimer => ⟨fun hp => ?_, fun hp => ?_, fun hp => ?_⟩, fun s h => event_same ?_, fun s hmode => ?_,
    fun s hnone => ?_, fun s hw => ⟨_, mem_lost_iff hw, lost_pairwise hw, ?_⟩⟩
  · exact (expiry s hlive).trans (congrArg _ (by simp only [timerExpires, htimer, hp]))
  · exact (expiry s hlive).trans (congrArg _ (by simp only [timerExpires, htimer, hp]))
  · exact (expiry s hlive).trans (congrArg _ (by simp only [timerExpires, htimer, hp]))
  · rcases h with h | h <;> simp only [timerExpires, h]
  · intro t before
    obtain ⟨hforces, hreadings⟩ := boundary_countDown_si
      (s.setPs { s.ps with cycle := s.ps.cycle + 1, phase := .walking, position := none })
    obtain ⟨hmc, hru, nodes, hti⟩ := cycleStart_keeps s
    have hps := cycleStart_ps s
    obtain ⟨hnoneTb, hsomeTb⟩ := cycleStart_tb s
    have hkept : t.tb = (cycleStart s).tb ∧ t.mc = (cycleStart s).mc ∧ t.si = (cycleStart s).si ∧
        t.ps.cycle = (cycleStart s).ps.cycle ∧ t.ps.timer = (cycleStart s).ps.timer ∧
        t.ps.overruns = (cycleStart s).ps.overruns ∧
        ((t.ps.phase = .walking ∧ ∃ x p row, t.ti.exchange = some x ∧ x.phase = .due ∧ t.ps.position = some p ∧
            (p, row) ∈ (cycleStart s).tb.active.poll) ∨
          (t.ps.phase = .waiting ∧ t.ps.position = none ∧ t.ti.exchange = s.ti.exchange ∧ t.ru = s.ru)) := by
      have hwalking : (cycleStart s).ps.phase = .walking := by rw [hps]
      have hend : Sent (cycleStart s).tb.active.poll (cycleStart s) t ∨
          ∃ u, Completed (cycleStart s) u ∧ t = u.setPs { u.ps with phase := .waiting } := openCycle_survey hmode
      clear_value t
      rcases hend with hsent | ⟨u, hu, rfl⟩
      · cases hsent with
        | poll p row _ x hrow _ hphase _ =>
          exact ⟨rfl, rfl, rfl, rfl, rfl, rfl, .inl ⟨hwalking, x, p, row, rfl, hphase, rfl, hrow⟩⟩
        | relay p row _ x _ _ hrow _ hphase =>
          exact ⟨rfl, rfl, rfl, rfl, rfl, rfl, .inl ⟨hwalking, x, p, row, rfl, hphase, rfl, hrow⟩⟩
      · cases hu with
        | mk nodes' hkeys =>
          refine ⟨rfl, rfl, rfl, rfl, rfl, rfl, .inr ⟨rfl, rfl, ?_, hru⟩⟩
          exact (congrArg (·.exchange) hti)
    obtain ⟨htb, hmcT, hsi, hcycle, htimer, hover, hwalk⟩ := hkept
    rw [htb, hmcT, hsi, hcycle, htimer, hover, cycleStart_si]
    refine ⟨by rw [hps], by rw [hps], by rw [hps], hmc, hnoneTb, hsomeTb, hwalk, hforces, fun k => ?_⟩
    exact hreadings k
  · intro begun
    have hopen : cycleStart s = (boundary countDown begun).setPs
        { (boundary countDown begun).ps with timer := .running (boundary countDown begun).tb.active.general.cyclePeriod } := rfl
    have hps : (countDown begun).ps = begun.ps := (countDown_only begun).keeps.2.2.1
    have htb : (countDown begun).tb = s.tb := (countDown_only begun).keeps.2.2.2.1
    rw [hopen, boundary_none (s := begun) hnone, hps, htb]
  · rw [countDown_si]
    rfl

end Sys2Proof.Machine

/-! SUPPORT. The taking of a commit, block by block (R15, R18, R55, R66, R104, R116): the statement O27. -/

namespace Sys2Proof.Machine

theorem Keyed.get_filter_keys {α : Type} (t : Keyed α) (p : Nat → Bool) (k : Nat) :
    Keyed.get (t.filter fun e => p e.1) k = if p k = true then t.get k else none := by
  induction t with
  | nil => simp
  | cons e t ih =>
    obtain ⟨j, v⟩ := e
    rw [List.filter_cons]
    by_cases hj : p j = true
    · rw [if_pos hj, Keyed.get_cons, Keyed.get_cons, ih]
      by_cases hjk : j = k
      · rw [if_pos hjk, if_pos hjk, ← hjk, if_pos hj]
      · rw [if_neg hjk, if_neg hjk]
    · rw [if_neg hj, ih, Keyed.get_cons]
      by_cases hjk : j = k
      · rw [← hjk, if_neg hj, if_neg hj]
      · rw [if_neg hjk]

/-! ### The records after a commit -/

theorem takeCommit_nodes (c : Tables) (s : State) :
    (takeCommit c s).ti.nodes = nodeList c.poll fun n => (s.node n).adjust s.tb.active.general c.general := rfl

theorem takeCommit_node (c : Tables) (s : State) (n : Nat) : (takeCommit c s).ti.nodes.get n =
    if n ∈ pollNodes c.poll then some ((s.node n).adjust s.tb.active.general c.general) else none := by
  rw [takeCommit_nodes, nodeList_get]

theorem takeCommit_reading (c : Tables) (s : State) (k : Nat) :
    (takeCommit c s).si.readings.get k = (c.probe.get k).map fun _ =>
      (if rowChanged s.tb.active.probe c.probe k then none else s.si.readings.get k).getD {} := by
  rw [takeCommit_si]
  exact Keyed.get_mapRows c.probe
    (fun k _ => (if rowChanged s.tb.active.probe c.probe k then none else s.si.readings.get k).getD {}) k

theorem takeCommit_force (c : Tables) (s : State) (k : Nat) :
    (takeCommit c s).si.forces.get k = if forceKept s.tb.active.probe c.probe k = true then s.si.forces.get k else none := by
  rw [takeCommit_si]
  exact Keyed.get_filter_keys _ _ k

theorem forceKept_iff {old new : Keyed ProbeRow} {k : Nat} :
    forceKept old new k = true ↔ ∃ a b, old.get k = some a ∧ new.get k = some b ∧ a.kind = b.kind := by
  unfold forceKept
  cases old.get k <;> cases new.get k <;> simp

theorem takeCommit_pair (c : Tables) (s : State) (p : Nat) :
    (takeCommit c s).pe.pairs.get p = (c.pair.get p).map fun row =>
      if pairChanged s.tb.active c p row then PairRecord.new else (s.pe.pairs.get p).getD PairRecord.new := by
  have h : (takeCommit c s).pe.pairs = c.pair.mapRows fun p row =>
      if pairChanged s.tb.active c p row then PairRecord.new else (s.pe.pairs.get p).getD PairRecord.new := rfl
  rw [h]
  exact Keyed.get_mapRows _ _ p

theorem rowChanged_iff {α : Type} [DecidableEq α] {old new : Keyed α} {k : Nat} :
    rowChanged old new k = true ↔ old.get k ≠ new.get k := decide_eq_true_iff

/-- A commit changes a pair by its row, a PROBE row of its channels or its ZONE row (R104). -/
theorem pairChanged_iff {old new : Tables} {p : Nat} {row : PairRow} : pairChanged old new p row = true ↔
    old.pair.get p ≠ new.pair.get p ∨ (∃ k ∈ [row.airT, row.airRh, row.surface], old.probe.get k ≠ new.probe.get k) ∨
      old.zone.get row.zone ≠ new.zone.get row.zone := by
  unfold pairChanged PairRow.channels
  rw [Bool.or_eq_true, Bool.or_eq_true, rowChanged_iff, rowChanged_iff, List.any_eq_true, or_assoc]
  simp only [rowChanged_iff]

theorem takeCommit_zones (c : Tables) (s : State) : (takeCommit c s).zm.zones = c.zone.mapRows (takeCommit c s).zoneRecord := rfl

/-! ### The Alert Queue after a commit (R116) -/

/-- The alert of a zone that has no entry (R112). -/
def newAlert (cycle : Half) (zone : Nat) (m : ZoneRecord × ZoneRecord) : Alert :=
  { zone := zone, fromLevel := m.1.level, fromBlind := m.1.blind, nowLevel := m.2.level, nowBlind := m.2.blind
    changes := 1, firstCycle := cycle, lastCycle := cycle }

/-- The record a zone had and has where its level or its blind flag differ (R111). -/
def movedZone (before after : Option ZoneRecord) : Option (ZoneRecord × ZoneRecord) :=
  match before, after with
  | some b, some a => if b.level = a.level ∧ b.blind = a.blind then none else some (b, a)
  | _, _ => none

section
variable (cycle : Half) (moved : Nat → Option (ZoneRecord × ZoneRecord))

/-- The queue after the alert of a zone that moves, or as it was. -/
def alertStep (alerts : List Alert) (z : Nat) : List Alert :=
  match moved z with
  | some m => recordAlert cycle z m.1 m.2 alerts
  | none => alerts

/-- An entry of the queue after alerts of some zones that move. -/
def alertAfter (zones : List Nat) (a : Alert) : Alert :=
  if a.zone ∈ zones then (moved a.zone).elim a fun m => a.again cycle m.2 else a

theorem alertAfter_cons {z : Nat} {zones : List Nat} (hz : z ∉ zones) (a : Alert) :
    alertAfter cycle moved zones (alertAfter cycle moved [z] a) = alertAfter cycle moved (z :: zones) a := by
  by_cases ha : a.zone = z
  · have hzone : (alertAfter cycle moved [z] a).zone = z := by
      unfold alertAfter
      rw [if_pos (by simp [ha])]
      cases moved a.zone <;> exact ha
    rw [alertAfter, if_neg (by rw [hzone]; exact hz)]
    simp [alertAfter, ha]
  · simp [alertAfter, ha]

theorem alertAfter_zone (zones : List Nat) (a : Alert) : (alertAfter cycle moved zones a).zone = a.zone := by
  unfold alertAfter
  split
  · cases moved a.zone <;> rfl
  · rfl

theorem alertStep_of_present {alerts : List Alert} {z : Nat} (h : alerts.any (fun a => a.zone == z) = true) :
    alertStep cycle moved alerts z = alerts.map (alertAfter cycle moved [z]) := by
  unfold alertStep alertAfter
  cases hm : moved z with
  | none =>
    refine (List.map_id' alerts).symm.trans (List.map_congr_left fun a _ => ?_)
    by_cases ha : a.zone = z <;> simp [ha, hm]
  | some m =>
    obtain ⟨a, ha, hzone⟩ := List.any_eq_true.1 h
    dsimp only
    rw [recordAlert_of_present ha (by simpa using hzone)]
    refine List.map_congr_left fun a _ => ?_
    by_cases ha : a.zone = z <;> simp [ha, hm]

theorem alertStep_of_absent {alerts : List Alert} {z : Nat} (h : ¬ alerts.any (fun a => a.zone == z) = true) :
    alertStep cycle moved alerts z =
      alerts.map (alertAfter cycle moved [z]) ++ ((moved z).map (newAlert cycle z)).toList := by
  have hne : ∀ a ∈ alerts, a.zone ≠ z := fun a ha hz => h (List.any_eq_true.2 ⟨a, ha, by simpa using hz⟩)
  have hmap : alerts.map (alertAfter cycle moved [z]) = alerts :=
    (List.map_congr_left fun a ha => if_neg (by simpa using hne a ha)).trans (List.map_id' alerts)
  rw [hmap]
  unfold alertStep
  cases moved z with
  | none => simp
  | some m => exact recordAlert_of_absent hne

/-- The zones' alerts one after the other: the entries there are follow their zones, and new ones come behind, in order. -/
theorem foldl_alertStep (zones : List Nat) (hzones : zones.Nodup) (alerts : List Alert) :
    zones.foldl (alertStep cycle moved) alerts =
      alerts.map (alertAfter cycle moved zones) ++ zones.filterMap (fun z =>
        if alerts.any (fun a => a.zone == z) = true then none else (moved z).map (newAlert cycle z)) := by
  induction zones generalizing alerts with
  | nil =>
    have hsame : alerts.map (alertAfter cycle moved []) = alerts := List.map_id' alerts
    simp [hsame]
  | cons z zones ih =>
    obtain ⟨hz, hzones⟩ := List.nodup_cons.1 hzones
    have hmap : (alerts.map (alertAfter cycle moved [z])).map (alertAfter cycle moved zones) =
        alerts.map (alertAfter cycle moved (z :: zones)) := by
      rw [List.map_map]
      exact List.map_congr_left fun a _ => alertAfter_cons cycle moved hz a
    have hany : ∀ z', (alerts.map (alertAfter cycle moved [z])).any (fun a => a.zone == z') = alerts.any (fun a => a.zone == z') := by
      intro z'
      simp [List.any_map, Function.comp_def, alertAfter_zone]
    rw [List.foldl_cons, ih hzones]
    by_cases h : alerts.any (fun a => a.zone == z) = true
    · rw [alertStep_of_present cycle moved h, hmap, List.filterMap_cons, if_pos h]
      simp only [hany]
    · rw [alertStep_of_absent cycle moved h, List.map_append, hmap, List.filterMap_cons, if_neg h]
      cases hm : moved z with
      | none => simp [hany]
      | some m =>
        have hnew : alertAfter cycle moved zones (newAlert cycle z m) = newAlert cycle z m := if_neg hz
        have hother : ∀ z' ∈ zones, (newAlert cycle z m).zone ≠ z' := fun z' hz' h' => hz ((show z = z' from h') ▸ hz')
        simp only [Option.map_some, Option.toList_some, List.map_cons, List.map_nil, hnew, List.append_assoc,
          List.cons_append, List.nil_append, List.any_append, hany, List.any_cons, List.any_nil, Bool.or_false]
        congr 2
        refine List.filterMap_congr fun z' hz' => ?_
        have : ((newAlert cycle z m).zone == z') = false := by simpa using hother z' hz'
        rw [this, Bool.or_false]

end

/-- The zones whose level or blind flag a commit moves. -/
def commitMoved (c : Tables) (s : State) (z : Nat) : Option (ZoneRecord × ZoneRecord) :=
  movedZone (s.zm.zones.get z) ((takeCommit c s).zm.zones.get z)

theorem takeCommit_zone (c : Tables) (s : State) (z : Nat) :
    (takeCommit c s).zm.zones.get z = (c.zone.get z).map ((takeCommit c s).zoneRecord z) := by
  rw [takeCommit_zones]
  exact Keyed.get_mapRows _ _ z

theorem takeCommit_alerts {c : Tables} (hw : Keyed.wf c.zone) (s : State) : (takeCommit c s).zm.alerts =
    c.zone.keys.foldl (alertStep s.ps.cycle (commitMoved c s)) (s.zm.alerts.filter fun a => (c.zone.get a.zone).isSome) := by
  have hfold : (takeCommit c s).zm.alerts = c.zone.foldl (fun acc e => match s.zm.zones.get e.1 with
      | some before => alertIfMoved s.ps.cycle e.1 before ((takeCommit c s).zoneRecord e.1 e.2) acc
      | none => acc) (s.zm.alerts.filter fun a => (c.zone.get a.zone).isSome) := rfl
  rw [hfold, Keyed.keys, List.foldl_map]
  refine List.foldl_ext _ _ _ fun acc e he => ?_
  have hafter : (takeCommit c s).zm.zones.get e.1 = some ((takeCommit c s).zoneRecord e.1 e.2) := by
    rw [takeCommit_zone, Keyed.get_of_mem hw he]; rfl
  unfold alertStep commitMoved
  rw [hafter]
  cases s.zm.zones.get e.1 with
  | none => rfl
  | some before =>
    by_cases h : before.level = ((takeCommit c s).zoneRecord e.1 e.2).level ∧ before.blind = ((takeCommit c s).zoneRecord e.1 e.2).blind
    · simp only [movedZone, alertIfMoved, if_pos h]
    · simp only [movedZone, alertIfMoved, if_neg h]

theorem Alert.again_eq (cycle : Half) (after : ZoneRecord) (a : Alert) : a.again cycle after =
    { a with nowLevel := after.level, nowBlind := after.blind, lastCycle := cycle
             changes := if a.changes < 255 then a.changes + 1 else 255 } := by
  have h : min 255 (a.changes + 1) = if a.changes < 255 then a.changes + 1 else 255 := (satSucc_eq_min 255 a.changes).symm
  rw [Alert.again, h]

/-- The Alert Queue after a commit: entries of deleted zones are gone, and the zones it moves have theirs (R116). -/
theorem takeCommit_alerts_eq {c : Tables} (hw : Keyed.wf c.zone) (s : State) : (takeCommit c s).zm.alerts =
    (s.zm.alerts.filter fun a => (c.zone.get a.zone).isSome).map (fun a =>
      (commitMoved c s a.zone).elim a fun m => a.again s.ps.cycle m.2) ++
    c.zone.keys.filterMap (fun z => if s.zm.alerts.any (fun a => a.zone == z) = true then none
      else (commitMoved c s z).map (newAlert s.ps.cycle z)) := by
  rw [takeCommit_alerts hw, foldl_alertStep _ _ _ ((Keyed.wf_iff_keys.1 hw).imp Nat.ne_of_lt)]
  congr 1
  · refine List.map_congr_left fun a ha => if_pos ?_
    exact Keyed.get_isSome_iff.1 (List.mem_filter.1 ha).2
  · refine List.filterMap_congr fun z hz => ?_
    have hany : (s.zm.alerts.filter fun a => (c.zone.get a.zone).isSome).any (fun a => a.zone == z) =
        s.zm.alerts.any (fun a => a.zone == z) := by
      rw [List.any_filter]
      refine congrArg s.zm.alerts.any (funext fun a => ?_)
      by_cases ha : a.zone = z
      · rw [ha, Keyed.get_isSome_iff.2 hz, Bool.true_and]
      · simp [ha]
    rw [hany]

/-- Settles O27: the collections by their rows, the queue by `takeCommit_alerts_eq`. -/
theorem commitRebuilds : Obligations.CommitRebuilds := by
  intro s c hc t old moved
  obtain ⟨⟨_, _, _, ⟨hzoneWf, _⟩, _⟩, _⟩ := hc
  have hmoved : ∀ z, commitMoved c s z = moved z := fun z => by
    unfold commitMoved movedZone
    rfl
  have halerts := takeCommit_alerts_eq hzoneWf s
  refine ⟨rfl, rfl, rfl, rfl, rfl, rfl, rfl, rfl, rfl, rfl, fun n hn => ?_, fun n r hn hr => ?_, fun n hn hnone => ?_,
    fun k hk => ?_, fun k row hk hold => ?_, fun k row r hk hold hr => ?_, fun k a b ha hb hkind => ?_, fun k hno => ?_,
    fun p hp => ?_, fun p row hp hch => ?_, fun p row r hp hold hprobe hzone hr => ?_, takeCommit_zone c s, fun a ha => ?_, ?_⟩
  · rw [takeCommit_node, if_neg hn]
  · rw [takeCommit_node, if_pos hn, State.node_of_get hr]
    rfl
  · rw [takeCommit_node, if_pos hn]
    simp [State.node, hnone, NodeRecord.adjust]
  · rw [takeCommit_reading, hk]; rfl
  · rw [takeCommit_reading, hk, rowChanged_iff.2 (by rw [hk]; exact hold)]; rfl
  · have hsame : ¬ rowChanged s.tb.active.probe c.probe k = true := by rw [rowChanged_iff, hk]; exact not_not.2 hold
    rw [takeCommit_reading, hk, if_neg hsame, hr]; rfl
  · rw [takeCommit_force, if_pos (forceKept_iff.2 ⟨a, b, ha, hb, hkind⟩)]
  · rw [takeCommit_force, if_neg]
    rw [forceKept_iff]
    rintro ⟨a, b, ha, hb, hkind⟩
    exact hno a b ha hb hkind
  · rw [takeCommit_pair, hp]; rfl
  · rw [takeCommit_pair, hp, Option.map_some, if_pos (pairChanged_iff.2 (by rw [hp]; exact hch))]; rfl
  · have hsame : ¬ pairChanged s.tb.active c p row = true := by
      rw [pairChanged_iff, hp]
      rintro (h | ⟨k, hk, h⟩ | h)
      · exact h hold
      · exact h (hprobe k hk)
      · exact h hzone
    rw [takeCommit_pair, hp, Option.map_some, if_neg hsame, hr]; rfl
  · rw [halerts, List.mem_append] at ha
    rcases ha with ha | ha
    · obtain ⟨b, hb, rfl⟩ := List.mem_map.1 ha
      have hzone := (List.mem_filter.1 hb).2
      cases commitMoved c s b.zone <;> exact hzone
    · obtain ⟨z, hz, ha⟩ := List.mem_filterMap.1 ha
      obtain ⟨_, ha⟩ := Option.ite_none_left_eq_some.1 ha
      obtain ⟨m, _, rfl⟩ := Option.map_eq_some_iff.1 ha
      exact Keyed.get_isSome_iff.2 hz
  · rw [halerts]
    simp only [hmoved, Alert.again_eq]
    congr 1
    refine List.map_congr_left fun a _ => ?_
    cases moved a.zone <;> rfl

end Sys2Proof.Machine

/-! SUPPORT. Reply frames as a receiver takes them, found on a line and graded (R3, R6, R7, R9): the statement O22. -/

namespace Sys2Proof.Machine

/-! ### Bytes with what the receiver noted of them -/

/-- A byte within a frame: it follows the byte before it without a gap. -/
def within (b : RxByte) : LineActivity := { idle := .short, byte := some b }

/-- The bytes of a frame after idle, each following the one before it without a gap. -/
def heardAs : List RxByte → List LineActivity
  | [] => []
  | b :: bs => { idle := .long, byte := some b } :: bs.map within

/-- A byte taken without a doubt and with its stop bit. -/
def cleanByte (v : Byte) : RxByte := { value := v, doubtful := false, framing := false }

theorem cleanly_eq (bs : List Byte) : cleanly bs = heardAs (bs.map cleanByte) := by
  cases bs with
  | nil => rfl
  | cons b bs => simp [cleanly, spaced, heardAs, within, cleanByte, Function.comp_def]

theorem heardAs_length (bs : List RxByte) : (heardAs bs).length = bs.length := by
  cases bs <;> simp [heardAs]

theorem heardAs_take (bs : List RxByte) (k : Nat) : (heardAs bs).take k = heardAs (bs.take k) := by
  cases bs <;> cases k <;> simp [heardAs, List.map_take]

theorem heardAs_append (front : List RxByte) (b : RxByte) (back : List RxByte) (hfront : front ≠ []) :
    heardAs (front ++ b :: back) = heardAs front ++ within b :: back.map within := by
  cases front with
  | nil => exact absurd rfl hfront
  | cons x front => simp [heardAs]

theorem modify_at_length {α : Type} (f : α → α) (front : List α) (a : α) (back : List α) :
    (front ++ a :: back).modify front.length f = front ++ f a :: back := by
  rw [List.modify_eq_take_cons_drop (by simp)]
  simp

theorem exists_split {α : Type} {l : List α} {k : Nat} (h : k < l.length) :
    ∃ front a back, l = front ++ a :: back ∧ front.length = k :=
  let ⟨front, a, back, hl, hk, _⟩ := List.exists_of_modify id h
  ⟨front, a, back, hl, hk⟩

/-- The bytes that a change of one activity's byte makes of a frame. -/
theorem heardAs_modify_byte (f : RxByte → RxByte) (front : List RxByte) (b : RxByte) (back : List RxByte) :
    (heardAs (front ++ b :: back)).modify front.length (fun x => { x with byte := x.byte.map f }) =
      heardAs (front ++ f b :: back) := by
  cases front with
  | nil => rfl
  | cons x front =>
    rw [heardAs_append _ _ _ (by simp), heardAs_append _ _ _ (by simp), ← heardAs_length, modify_at_length]
    rfl

/-! ### The bytes of a reply -/

theorem ReplyKind.ofCode_code (k : ReplyKind) : ReplyKind.ofCode k.code = some k := by cases k <;> rfl

theorem ReplyKind.code_range (k : ReplyKind) : 1 ≤ k.code ∧ k.code ≤ 4 := by cases k <;> decide

/-- The control byte carries the kind and the toggle (R195). -/
theorem control_kind (k : ReplyKind) (t : Bool) : (byte (k.code + bitAt 7 t)).toNat % 16 = k.code := by
  cases k <;> cases t <;> rfl

theorem control_toggle (k : ReplyKind) (t : Bool) : (byte (k.code + bitAt 7 t)).getLsbD 7 = t := by
  cases k <;> cases t <;> rfl

theorem sampleRecords_bytes : ∀ {records : List SampleRecord},
    (records.all fun x => decide (x.slot ≤ 255) && decide (x.status ≤ 255) && decide (x.raw ≤ 65535)) = true →
    sampleRecords (records.flatMap SampleRecord.bytes) = records
  | [], _ => rfl
  | x :: records, h => by
    rw [List.all_cons, Bool.and_eq_true] at h
    obtain ⟨hx, hrest⟩ := h
    simp only [Bool.and_eq_true, decide_eq_true_eq] at hx
    obtain ⟨⟨hslot, hstatus⟩, hraw⟩ := hx
    have hbytes : (x :: records).flatMap SampleRecord.bytes =
        byte x.slot :: byte x.status :: (BitVec.ofNat 16 x.raw).extractLsb' 8 8 :: (BitVec.ofNat 16 x.raw).extractLsb' 0 8 ::
          records.flatMap SampleRecord.bytes := rfl
    rw [hbytes, sampleRecords, natOf_natBytes (by omega), byte_toNat_of_lt (by omega), byte_toNat_of_lt (by omega),
      sampleRecords_bytes hrest]

theorem records_length (records : List SampleRecord) : (records.flatMap SampleRecord.bytes).length = 4 * records.length := by
  induction records with
  | nil => rfl
  | cons x records ih =>
    rw [List.flatMap_cons, List.length_append, ih, List.length_cons]
    have : (SampleRecord.bytes x).length = 4 := rfl
    omega

/-- What a sendable reply's payload keeps: its length fits the kind, it is no undefined fault, and it spells the reply. -/
theorem Reply.sendable_payload {r : Reply} (h : r.sendable = true) :
    r.payload.length < 256 ∧ lengthFits r.kind r.payload.length = true ∧ ¬ (r.kind = .fault ∧ r.payload = [0#8]) ∧
    replyOf r.kind r.toggle r.payload = r := by
  cases r with
  | data t records =>
    simp only [Reply.sendable, Bool.and_eq_true, decide_eq_true_eq] at h
    obtain ⟨⟨h1, h4⟩, hall⟩ := h
    have hlen := records_length records
    have hsame : sampleRecords (records.flatMap SampleRecord.bytes) = records := sampleRecords_bytes (by
      simpa only [Bool.and_eq_true, decide_eq_true_eq] using hall)
    refine ⟨by rw [Reply.payload]; omega, ?_, by simp [Reply.kind], ?_⟩
    · simp only [Reply.kind, Reply.payload, lengthFits, hlen]
      have hcount : records.length = 1 ∨ records.length = 2 ∨ records.length = 3 ∨ records.length = 4 := by omega
      rcases hcount with h | h | h | h <;> rw [h] <;> rfl
    · simp only [Reply.kind, Reply.payload, Reply.toggle, replyOf, hsame]
  | empty => decide
  | fault code =>
    simp only [Reply.sendable, Bool.and_eq_true, decide_eq_true_eq] at h
    have hcode : (byte code).toNat = code := byte_toNat_of_lt (by omega)
    refine ⟨Nat.succ_lt_succ (Nat.succ_pos _), rfl, ?_, ?_⟩
    · rintro ⟨_, hzero⟩
      have hb : byte code = 0#8 := by simpa [Reply.payload] using hzero
      rw [hb] at hcode
      simp at hcode
      omega
    · simp [Reply.kind, Reply.payload, replyOf, hcode]
  | answer bytes =>
    have hlen : bytes.length ≤ 32 := by simpa [Reply.sendable] using h
    exact ⟨by simp only [Reply.payload]; omega, decide_eq_true hlen, by simp [Reply.kind], rfl⟩

/-! ### Grading a frame (R9) -/

/-- The conclusion of a whole frame of a reply, the first of R9 that holds. -/
def replyConclusion (node source : Nat) (r : Reply) (checked : Bool) (delimiter : RxByte) (after : List RxByte) : Conclusion :=
  if checked = false ∨ after.any RxByte.framing = true then .check
  else if source ≠ node then .stray
  else if (delimiter :: after).any RxByte.doubtful = true then .marked r else .good r

/-- The bytes of a frame of a defined kind and a fitting length bring its grading, and no fewer bring a conclusion. -/
theorem gradeBytes_whole {node : Nat} {d n c l : RxByte} {p ck : List RxByte} {k : ReplyKind}
    (hkind : ReplyKind.ofCode (c.value.toNat % 16) = some k) (hlen : l.value.toNat = p.length)
    (hfits : lengthFits k p.length = true) (hck : ck.length = 2) :
    gradeBytes node d (n :: c :: l :: (p ++ ck)) = some (gradeComplete node k d n c l p ck) ∧
    ∀ j < (n :: c :: l :: (p ++ ck)).length, gradeBytes node d ((n :: c :: l :: (p ++ ck)).take j) = none := by
  have hbody : ∀ body : List RxByte, gradeBytes node d (n :: c :: l :: body) =
      if body.length < p.length + 2 then none
      else some (gradeComplete node k d n c l (body.take p.length) ((body.drop p.length).take 2)) := fun body => by
    simp only [gradeBytes, hkind, hlen, hfits, if_true]
  refine ⟨?_, fun j hj => ?_⟩
  · have htake : ck.take 2 = ck := List.take_of_length_le hck.le
    rw [hbody, if_neg (by simp [hck]), List.take_left, List.drop_left, htake]
  · match j with
    | 0 => rfl
    | 1 => rfl
    | 2 => rfl
    | j + 3 =>
      simp only [List.length_cons, List.length_append, hck] at hj
      have hshort : ((p ++ ck).take j).length < p.length + 2 := by
        rw [List.length_take, List.length_append, hck]
        omega
      rw [List.take_succ_cons, List.take_succ_cons, List.take_succ_cons, hbody, if_pos hshort]

/-- The bytes of a reply frame bring its conclusion, and no fewer bring one (R7, R9). -/
theorem gradeBytes_reply {node source : Nat} {r : Reply} (hsource : source ≤ 126) (hr : r.sendable = true) {c1 c0 : Byte}
    {after : List RxByte} (hafter : after.map RxByte.value = replyBody source r ++ [c1, c0]) (d : RxByte) :
    gradeBytes node d after = some (replyConclusion node source r
      (decide ([c1, c0] = wordBytes (check16 (replyBody source r)))) d after) ∧
    ∀ k < after.length, gradeBytes node d (after.take k) = none := by
  obtain ⟨hlen, hfits, hfault, hreply⟩ := Reply.sendable_payload hr
  obtain ⟨n, _, rfl, hn, hafter⟩ := List.map_eq_cons_iff.1 hafter
  obtain ⟨c, _, rfl, hc, hafter⟩ := List.map_eq_cons_iff.1 hafter
  obtain ⟨l, _, rfl, hl, hafter⟩ := List.map_eq_cons_iff.1 hafter
  obtain ⟨p, ck, rfl, hp, hck⟩ := List.map_eq_append_iff.1 hafter
  replace hp : p.map RxByte.value = r.payload := hp
  have hplen : p.length = r.payload.length := by rw [← hp, List.length_map]
  have hcklen : ck.length = 2 := by simpa using congrArg List.length hck
  obtain ⟨hwhole, hshort⟩ := gradeBytes_whole (node := node) (d := d) (n := n) (c := c) (l := l) (p := p) (ck := ck) (k := r.kind)
    (by rw [hc, control_kind, ReplyKind.ofCode_code]) (by rw [hl, byte_toNat_of_lt hlen, hplen]) (by rw [hplen, hfits]) hcklen
  refine ⟨hwhole.trans (congrArg some ?_), hshort⟩
  have hbody : n.value :: c.value :: l.value :: p.map RxByte.value = replyBody source r := by rw [hn, hc, hl, hp]; rfl
  have hnode : n.value.toNat = source := by rw [hn, byte_toNat_of_lt (by omega)]
  have htoggle : c.value.getLsbD 7 = r.toggle := by rw [hc, control_toggle]
  unfold gradeComplete replyConclusion
  dsimp only
  rw [hbody, hp, hck, hnode, htoggle, hreply, if_neg hfault]
  simp only [decide_eq_false_iff_not, ne_eq]

/-! ### Finding a frame (R7) -/

theorem gradeFrame_whole {node : Nat} {d : RxByte} (bs : List RxByte) : gradeFrame node d (bs.map within) =
    match gradeBytes node d bs with
    | some c => .ended c
    | none => .unfinished := by
  have hrun : (bs.map within).takeWhile (fun x => decide (x.idle = .short)) = bs.map within := by
    rw [List.takeWhile_eq_self_iff]
    intro x hx
    obtain ⟨b, _, rfl⟩ := List.mem_map.1 hx
    rfl
  have hbytes : (bs.map within).filterMap LineActivity.byte = bs := by
    rw [List.filterMap_map]
    exact List.filterMap_some
  unfold gradeFrame
  rw [hrun]
  dsimp only
  rw [hbytes]
  cases gradeBytes node d bs with
  | none => exact if_neg (lt_irrefl _)
  | some c => rfl

/-- A gap before the frame has ended ends it early (R7). -/
theorem gradeFrame_gap {node : Nat} {d : RxByte} {front : List RxByte} {x : LineActivity} (hx : x.idle ≠ .short)
    (hfront : gradeBytes node d front = none) (back : List LineActivity) :
    gradeFrame node d (front.map within ++ x :: back) = .ended .length := by
  have hrun : (front.map within ++ x :: back).takeWhile (fun x => decide (x.idle = .short)) = front.map within := by
    rw [List.takeWhile_append_of_pos, List.takeWhile_cons_of_neg (by simpa using hx), List.append_nil]
    intro x hx
    obtain ⟨b, _, rfl⟩ := List.mem_map.1 hx
    rfl
  have hbytes : (front.map within).filterMap LineActivity.byte = front := by
    rw [List.filterMap_map]
    exact List.filterMap_some
  unfold gradeFrame
  rw [hrun]
  dsimp only
  rw [hbytes, hfront]
  exact if_pos (by simp)

theorem gradeLine_passes {node : Nat} {seen : Bool} {x : LineActivity} {rest : List LineActivity} (h : delimiterOf seen x = none) :
    gradeLine node seen (x :: rest) = gradeLine node true rest := by
  rw [gradeLine, h]

theorem gradeLine_starts {node : Nat} {seen : Bool} {d : RxByte} {rest : List LineActivity} (hvalue : d.value = 0x5A#8)
    (hframing : d.framing = false) :
    gradeLine node seen ({ idle := .long, byte := some d } :: rest) = gradeFrame node d rest := by
  have h : delimiterOf seen { idle := .long, byte := some d } = some d := by
    simp [delimiterOf, Option.filter, hvalue, hframing]
  rw [gradeLine, h]

theorem delimiterOf_eq_none {seen : Bool} {x : LineActivity}
    (h : ∀ b ∈ x.byte, b.value ≠ 0x5A#8 ∨ b.framing = true ∨ (seen = true ∧ x.idle ≠ .long)) : delimiterOf seen x = none := by
  unfold delimiterOf
  rw [Option.filter_eq_none_iff]
  intro b hb
  rcases h b hb with h | h | ⟨h, hi⟩
  · simp [h]
  · simp [h]
  · simp [h, hi]

/-- Activity that starts no frame is passed over, whatever it is (R7). -/
theorem gradeLine_after_noise {node : Nat} {frame : List LineActivity} {e : FrameEnd}
    (hframe : ∀ seen, gradeLine node seen frame = e) :
    ∀ (noise : List LineActivity) (seen : Bool), gradeLine node seen noise = .notStarted → gradeLine node seen (noise ++ frame) = e
  | [], seen, _ => hframe seen
  | x :: noise, seen, h => by
    cases hd : delimiterOf seen x with
    | none =>
      rw [gradeLine_passes hd] at h
      rw [List.cons_append, gradeLine_passes hd]
      exact gradeLine_after_noise hframe noise true h
    | some d =>
      rw [gradeLine, hd] at h
      dsimp only [gradeFrame] at h
      split at h
      · cases h
      · split at h <;> cases h

/-! ### A reply frame on a line -/

section
variable {source : Nat} {r : Reply} {d : RxByte} {after : List RxByte} {c1 c0 : Byte}

/-- The bytes `d` and `after` are those of a frame of a reply, with check bytes `c1` and `c0`. -/
def Spells (source : Nat) (r : Reply) (c1 c0 : Byte) (d : RxByte) (after : List RxByte) : Prop :=
  d.value = 0x5A#8 ∧ d.framing = false ∧ after.map RxByte.value = replyBody source r ++ [c1, c0]

/-- A whole frame of a reply ends with its conclusion (R7, R9). -/
theorem gradeLine_reply (hsource : source ≤ 126) (hr : r.sendable = true) (h : Spells source r c1 c0 d after) (node : Nat)
    (seen : Bool) : gradeLine node seen (heardAs (d :: after)) = .ended (replyConclusion node source r
      (decide ([c1, c0] = wordBytes (check16 (replyBody source r)))) d after) := by
  obtain ⟨hvalue, hframing, hafter⟩ := h
  rw [heardAs, gradeLine_starts hvalue hframing, gradeFrame_whole, (gradeBytes_reply hsource hr hafter d).1]

/-- A frame of which a byte is missing has not ended (R7). -/
theorem gradeLine_unfinished (hsource : source ≤ 126) (hr : r.sendable = true) (h : Spells source r c1 c0 d after) (node : Nat)
    (seen : Bool) {k : Nat} (h1 : 1 ≤ k) (hk : k < (d :: after).length) :
    gradeLine node seen (heardAs ((d :: after).take k)) = .unfinished := by
  obtain ⟨hvalue, hframing, hafter⟩ := h
  obtain ⟨j, rfl⟩ := Nat.exists_eq_add_of_le' h1
  rw [List.take_succ_cons, heardAs, gradeLine_starts hvalue hframing, gradeFrame_whole,
    (gradeBytes_reply hsource hr hafter d).2 j (Nat.lt_of_succ_lt_succ hk)]

/-- A gap within a frame ends it early (R7). -/
theorem gradeLine_gap (hsource : source ≤ 126) (hr : r.sendable = true) (h : Spells source r c1 c0 d after) (node : Nat)
    (seen : Bool) {k : Nat} (h1 : 1 ≤ k) (hk : k < (d :: after).length) {idle : Idle} (hidle : idle ≠ .short) :
    gradeLine node seen ((heardAs (d :: after)).modify k fun x => { x with idle := idle }) = .ended .length := by
  obtain ⟨hvalue, hframing, hafter⟩ := h
  obtain ⟨j, rfl⟩ := Nat.exists_eq_add_of_le' h1
  have hj : j < after.length := Nat.lt_of_succ_lt_succ hk
  have hnone := (gradeBytes_reply (node := node) hsource hr hafter d).2 j hj
  obtain ⟨front, b, back, rfl, rfl⟩ := exists_split hj
  rw [List.take_left] at hnone
  rw [heardAs, List.modify_succ_cons, gradeLine_starts hvalue hframing, List.map_append, List.map_cons]
  have hmod := modify_at_length (fun x : LineActivity => { x with idle := idle }) (front.map within) (within b) (back.map within)
  rw [List.length_map] at hmod
  rw [hmod]
  exact gradeFrame_gap hidle hnone _

end

/-- The bytes of a reply frame from a clean line. -/
theorem spells_clean (source : Nat) (r : Reply) (c1 c0 : Byte) :
    Spells source r c1 c0 (cleanByte 0x5A#8) ((replyBody source r ++ [c1, c0]).map cleanByte) :=
  ⟨rfl, rfl, by rw [List.map_map]; exact List.map_id _⟩

theorem clean_any (f : RxByte → Bool) (hf : ∀ v, f (cleanByte v) = false) (bs : List Byte) : (bs.map cleanByte).any f = false := by
  simp [hf]

/-- The conclusion of a frame with its own check bytes and no framing error, from the node polled (R9). -/
theorem replyConclusion_whole {node : Nat} {r : Reply} {d : RxByte} {after : List RxByte} (hframing : after.any RxByte.framing = false) :
    replyConclusion node node r true d after =
      if (d :: after).any RxByte.doubtful = true then .marked r else .good r := by
  rw [replyConclusion, hframing, if_neg (by simp), if_neg (by simp)]

theorem replyConclusion_framing {node source : Nat} {r : Reply} {checked : Bool} {d : RxByte} {after : List RxByte}
    (hframing : after.any RxByte.framing = true) : replyConclusion node source r checked d after = .check :=
  if_pos (.inr hframing)

/-- A frame's grading when the notes on one later byte change, its value kept. -/
theorem gradeLine_modify {source : Nat} {r : Reply} {d : RxByte} {after : List RxByte} {c1 c0 : Byte} (hsource : source ≤ 126)
    (hr : r.sendable = true) (h : Spells source r c1 c0 d after) (node : Nat) (seen : Bool) {j : Nat} (hj : j < after.length)
    {f : RxByte → RxByte} (hf : ∀ b, (f b).value = b.value) : ∃ front b back, after = front ++ b :: back ∧
      gradeLine node seen ((heardAs (d :: after)).modify (j + 1) fun x => { x with byte := x.byte.map f }) =
        .ended (replyConclusion node source r (decide ([c1, c0] = wordBytes (check16 (replyBody source r)))) d
          (front ++ f b :: back)) := by
  obtain ⟨hvalue, hframing, hafter⟩ := h
  obtain ⟨front, b, back, rfl, rfl⟩ := exists_split hj
  have hmod := heardAs_modify_byte f (d :: front) b back
  have hspells : Spells source r c1 c0 d (front ++ f b :: back) := ⟨hvalue, hframing, by
    rw [← hafter]; simp [hf]⟩
  refine ⟨front, b, back, rfl, ?_⟩
  rw [← gradeLine_reply hsource hr hspells node seen]
  exact congrArg (gradeLine node seen) hmod

/-- Settles O22: what a receiver takes of a byte, the search, and the grading by the first of R9 that holds. -/
theorem replyFramesGrade : Obligations.ReplyFramesGrade := by
  refine ⟨fun x => ⟨fun k hk => ?_, ?_, ?_⟩, fun x => rfl, fun bs => ?_, fun node seen x rest h => gradeLine_passes (delimiterOf_eq_none h),
    fun node seen => by cases seen <;> rfl, fun node r seen h1 h126 hr => ?_, fun node seen n c l rest => ?_⟩
  · simp [receivedByte, hk, Nat.add_comm]
  · have hext : x.early = x.late ↔ ∀ k < 10, x.early.getLsbD k = x.late.getLsbD k :=
      ⟨fun h k _ => by rw [h], fun h => BitVec.eq_of_getLsbD_eq h⟩
    simp [receivedByte, hext]
  · simp [receivedByte]
  · have hactivity : ∀ (idle : Idle) (v : Byte),
        receivedActivity { idle := idle, byte := some { early := lineWord v, late := lineWord v } } =
          { idle := idle, byte := some (cleanByte v) } := fun idle v => by simp [receivedActivity]; rfl
    cases bs with
    | nil => rfl
    | cons b bs =>
      simp only [driven, cleanly, spaced, List.map_cons, List.map_map, Function.comp_def, hactivity]
      rfl
  · intro frame
    obtain ⟨c1, c0, hck⟩ : ∃ c1 c0, wordBytes (check16 (replyBody node r)) = [c1, c0] := ⟨_, _, rfl⟩
    obtain ⟨after, hafter⟩ : ∃ after, after = (replyBody node r ++ [c1, c0]).map cleanByte := ⟨_, rfl⟩
    have hframe : frame = heardAs (cleanByte 0x5A#8 :: after) := by
      rw [hafter, ← hck]
      exact cleanly_eq _
    have hspells : Spells node r c1 c0 (cleanByte 0x5A#8) after := by rw [hafter]; exact spells_clean node r c1 c0
    have hlen : frame.length = (cleanByte 0x5A#8 :: after).length := by rw [hframe, heardAs_length]
    have hdoubt : after.any RxByte.doubtful = false := by rw [hafter]; exact clean_any _ (fun _ => rfl) _
    have hframing : after.any RxByte.framing = false := by rw [hafter]; exact clean_any _ (fun _ => rfl) _
    have hgood : ∀ seen, gradeLine node seen frame = .ended (.good r) := fun seen => by
      rw [hframe, gradeLine_reply h126 hr hspells, decide_eq_true hck.symm, replyConclusion_whole hframing, List.any_cons, hdoubt]
      rfl
    refine ⟨hgood seen, fun noise hnoise => gradeLine_after_noise hgood noise seen hnoise, fun k hk => ?_, fun k hk1 hk => ?_,
      fun b1 b0 hwrong => ?_, fun other hother => ?_, fun k idle hk1 hk hidle => ?_, fun k hk1 hk => ?_⟩
    · rw [hframe]
      cases k with
      | zero =>
        have hspells' : Spells node r c1 c0 { cleanByte 0x5A#8 with doubtful := true } after := hspells
        refine (gradeLine_reply h126 hr hspells' node seen).trans (congrArg FrameEnd.ended ?_)
        rw [decide_eq_true hck.symm, replyConclusion_whole hframing, List.any_cons, if_pos (by simp)]
      | succ j =>
        obtain ⟨front, b, back, hsplit, hgrade⟩ := gradeLine_modify h126 hr hspells node seen
          (j := j) (f := fun b => { b with doubtful := true }) (by rw [hlen] at hk; exact Nat.lt_of_succ_lt_succ hk) (fun _ => rfl)
        rw [hsplit] at hframing
        refine hgrade.trans (congrArg FrameEnd.ended ?_)
        rw [decide_eq_true hck.symm, replyConclusion_whole (by simpa using hframing), if_pos (by simp)]
    · obtain ⟨j, rfl⟩ := Nat.exists_eq_add_of_le' hk1
      obtain ⟨front, b, back, hsplit, hgrade⟩ := gradeLine_modify h126 hr hspells node seen
        (j := j) (f := fun b => { b with framing := true }) (by rw [hlen] at hk; exact Nat.lt_of_succ_lt_succ hk) (fun _ => rfl)
      rw [hframe]
      exact hgrade.trans (congrArg FrameEnd.ended (replyConclusion_framing (by simp)))
    · rw [cleanly_eq, List.map_cons, gradeLine_reply h126 hr (spells_clean node r b1 b0)]
      exact congrArg FrameEnd.ended (if_pos (.inl (decide_eq_false hwrong)))
    · rw [hframe, gradeLine_reply h126 hr hspells, decide_eq_true hck.symm, replyConclusion, hframing, if_neg (by simp),
        if_pos (Ne.symm hother)]
    · rw [hframe] at hk ⊢
      rw [heardAs_length] at hk
      exact gradeLine_gap h126 hr hspells node seen hk1 hk hidle
    · rw [hframe] at hk ⊢
      rw [heardAs_length] at hk
      rw [heardAs_take]
      exact gradeLine_unfinished h126 hr hspells node seen hk1 hk
  · intro kind h
    have hgrade : ∀ e, gradeBytes node (cleanByte 0x5A#8) ((n :: c :: l :: rest).map cleanByte) = some e →
        gradeLine node seen (cleanly (0x5A#8 :: n :: c :: l :: rest)) = .ended e := fun e he => by
      rw [cleanly_eq, List.map_cons, heardAs, gradeLine_starts rfl rfl, gradeFrame_whole, he]
    have hbytes : ∀ (k : Option ReplyKind), ReplyKind.ofCode kind = k →
        gradeBytes node (cleanByte 0x5A#8) ((n :: c :: l :: rest).map cleanByte) = match k with
          | none => some .length
          | some k =>
            if lengthFits k l.toNat then
              if (rest.map cleanByte).length < l.toNat + 2 then none
              else some (gradeComplete node k (cleanByte 0x5A#8) (cleanByte n) (cleanByte c) (cleanByte l)
                ((rest.map cleanByte).take l.toNat) (((rest.map cleanByte).drop l.toNat).take 2))
            else some .length := fun k hk => by
      rw [← hk]
      rfl
    refine hgrade _ ?_
    rcases h with h | h | ⟨h, hl⟩ | ⟨h, hl⟩ | ⟨h, hl⟩ | ⟨h, hl⟩ | ⟨h, hl, k1, k0, after, hrest⟩
    · rw [hbytes none (by rw [h]; rfl)]
    · rw [hbytes none (by unfold ReplyKind.ofCode; repeat rw [if_neg (by omega)])]
    · rw [hbytes (some .data) (by rw [h]; rfl)]
      exact if_neg (by simpa [lengthFits, or_assoc] using hl)
    · rw [hbytes (some .empty) (by rw [h]; rfl)]
      exact if_neg (by simpa [lengthFits] using hl)
    · rw [hbytes (some .fault) (by rw [h]; rfl)]
      exact if_neg (by simpa [lengthFits] using hl)
    · rw [hbytes (some .answer) (by rw [h]; rfl)]
      exact if_neg (by simpa [lengthFits] using hl)
    · rw [hbytes (some .fault) (by rw [h]; rfl), hrest, hl]
      have hfits : lengthFits .fault 1 = true := rfl
      have hmany : ¬ ((0 :: k1 :: k0 :: after).map cleanByte).length < 1 + 2 := by simp
      dsimp only
      rw [if_pos hfits, if_neg hmany]
      rfl

end Sys2Proof.Machine

/-! SUPPORT. What an intake event makes of one channel (R43 to R50, R61, R62), and its lists (R51): the statements O34 and O51. -/

namespace Sys2Proof.Machine

/-! ### One channel during an intake event -/

/-- What an intake event has of one channel: its reading, whether the event has written it, and whether step 1 last wrote an OK
sample to it (R50, R51). -/
structure ChannelWork where
  reading : Option Reading
  written : Bool
  lastOk : Bool

/-- The part of an intake event's work that is of one channel. -/
def IntakeWork.channel (w : IntakeWork) (k : Nat) : ChannelWork :=
  { reading := w.readings.get k, written := w.written.contains k, lastOk := w.lastOk.contains k }

/-- What a sample record does to the channel of its slot (R45 to R47, R50). -/
def sampleStep (cycle : Half) (n : Notice) (row : ProbeRow) (v : ChannelWork) (x : Sample) : ChannelWork :=
  match x.status with
  | .ok => { reading := v.reading.map fun r => sampleEffect cycle n row r x, written := true, lastOk := true }
  | .sensorFault => { v with reading := v.reading.map fun r => sampleEffect cycle n row r x, lastOk := false }
  | .warming => v

/-- What a force entry does to its channel (R50, R61, R62). -/
def forceStep (cycle : Half) (row : ProbeRow) (f : Option Force) (v : ChannelWork) : ChannelWork :=
  match f with
  | none => v
  | some f =>
    match f.kind with
    | .pin => { v with reading := v.reading.map fun _ => pinReading cycle row f.value, written := true }
    | .substitute =>
      if v.lastOk then
        { v with reading := v.reading.map fun r => { r with quality := .forced, value := some f.value }, written := true }
      else v

/-- What the reply taken does to a channel of its node (R43 to R49). -/
def replyStep (cycle : Half) (n : Notice) (row : ProbeRow) (v : ChannelWork) : ChannelWork :=
  match n.taken with
  | .newBlock samples => (samples.filter fun x => x.slot == row.slot).foldl (sampleStep cycle n row) v
  | .fault _ => { v with reading := v.reading.map Reading.toFault }
  | .nothing => v
  | .outOfStep => v
  | .empty => v
  | .answer => v

theorem channel_put_other {readings : Keyed Reading} {k c : Nat} (h : c ≠ k) (f : Reading → Reading) :
    (readings.modify c f).get k = readings.get k := by
  rw [Keyed.get_modify, if_neg h]

section
variable {rows : Keyed ProbeRow} {k : Nat} {row : ProbeRow} {n : Notice} {cycle : Half} {w : IntakeWork} {x : Sample}

/-- The channel of a node's slot is a channel with a row of that node and slot (R44). -/
theorem channelOf_spec {node slot c : Nat} {q : ProbeRow} (hw : Keyed.wf rows) (h : channelOf rows node slot = some (c, q)) :
    rows.get c = some q ∧ q.node = node ∧ q.slot = slot := by
  have hmatch := List.find?_some h
  rw [Bool.and_eq_true, beq_iff_eq, beq_iff_eq] at hmatch
  exact ⟨Keyed.get_of_mem hw (List.mem_of_find?_eq_some h), hmatch.1, hmatch.2⟩

theorem channelOf_isSome (hrow : rows.get k = some row) : (channelOf rows row.node row.slot).isSome = true := by
  rw [channelOf, List.find?_isSome]
  exact ⟨(k, row), Keyed.mem_of_get hrow, by simp⟩

/-- A sample record of another node or slot leaves a channel as it was. -/
theorem applySample_other (hw : Keyed.wf rows) (hrow : rows.get k = some row) (h : ¬ (row.node = n.node ∧ x.slot = row.slot)) :
    (applySample cycle rows n w x).channel k = w.channel k := by
  unfold applySample
  cases hc : channelOf rows n.node x.slot with
  | none => rfl
  | some e =>
    obtain ⟨c, q⟩ := e
    obtain ⟨hq, hnode, hslot⟩ := channelOf_spec hw hc
    have hck : c ≠ k := fun hck => by
      rw [hck, hrow] at hq
      cases hq
      exact h ⟨hnode, hslot.symm⟩
    cases x.status with
    | ok => simp [IntakeWork.channel, channel_put_other hck, Ne.symm hck]
    | sensorFault =>
      simp only [IntakeWork.channel, channel_put_other hck]
      congr 1
      rw [Bool.eq_iff_iff]
      simp [Ne.symm hck]
    | warming => rfl

/-- A sample record acts on the channel of its node and slot alone, where that is one channel. -/
theorem applySample_mine (hw : Keyed.wf rows)
    (hunique : ∀ c q, rows.get c = some q → q.node = row.node → q.slot = row.slot → c = k) (hrow : rows.get k = some row)
    (hnode : row.node = n.node) (hslot : x.slot = row.slot) :
    (applySample cycle rows n w x).channel k = sampleStep cycle n row (w.channel k) x := by
  have hc : channelOf rows n.node x.slot = some (k, row) := by
    rw [hslot, ← hnode]
    obtain ⟨⟨c, q⟩, hcq⟩ := Option.isSome_iff_exists.1 (channelOf_isSome hrow)
    obtain ⟨hq, hqn, hqs⟩ := channelOf_spec hw hcq
    have hck := hunique c q hq hqn hqs
    rw [hck, hrow] at hq
    cases hq
    rw [hcq, hck]
  unfold applySample sampleStep
  rw [hc]
  cases hx : x.status with
  | ok => simp [IntakeWork.channel, Keyed.get_modify, sampleEffect, hx, okReading]
  | sensorFault =>
    simp only [IntakeWork.channel, Keyed.get_modify, if_true, sampleEffect, hx]
    congr 1
    simp
  | warming => rfl

theorem foldl_applySample_mine (hw : Keyed.wf rows)
    (hunique : ∀ c q, rows.get c = some q → q.node = row.node → q.slot = row.slot → c = k) (hrow : rows.get k = some row)
    (hnode : row.node = n.node) (samples : List Sample) (w : IntakeWork) :
    (samples.foldl (applySample cycle rows n) w).channel k =
      (samples.filter fun x => x.slot == row.slot).foldl (sampleStep cycle n row) (w.channel k) := by
  induction samples generalizing w with
  | nil => rfl
  | cons x samples ih =>
    rw [List.foldl_cons, ih, List.filter_cons]
    by_cases hslot : x.slot = row.slot
    · rw [if_pos (by simpa using hslot), List.foldl_cons, applySample_mine hw hunique hrow hnode hslot]
    · rw [if_neg (by simpa using hslot), applySample_other hw hrow fun h => hslot h.2]

theorem foldl_applySample_other (hw : Keyed.wf rows) (hrow : rows.get k = some row) (hnode : row.node ≠ n.node)
    (samples : List Sample) (w : IntakeWork) : (samples.foldl (applySample cycle rows n) w).channel k = w.channel k := by
  induction samples generalizing w with
  | nil => rfl
  | cons x samples ih => rw [List.foldl_cons, ih, applySample_other hw hrow fun h => hnode h.1]

theorem get_foldl_modify (f : Reading → Reading) (chans : Keyed ProbeRow) (hw : Keyed.wf chans) (readings : Keyed Reading) (k : Nat) :
    (chans.foldl (fun rs e => rs.modify e.1 f) readings).get k =
      if k ∈ chans.keys then (readings.get k).map f else readings.get k := by
  induction chans generalizing readings with
  | nil => simp [Keyed.keys]
  | cons e chans ih =>
    obtain ⟨hfirst, hw⟩ := List.pairwise_cons.1 hw
    rw [List.foldl_cons, ih hw, Keyed.get_modify]
    have hkeys : Keyed.keys (e :: chans) = e.1 :: Keyed.keys chans := rfl
    simp only [hkeys, List.mem_cons]
    by_cases hk : e.1 = k
    · have hnot : k ∉ Keyed.keys chans := fun hmem => by
        obtain ⟨e', he', rfl⟩ := List.mem_map.1 hmem
        exact absurd hk (Nat.ne_of_lt (hfirst e' he'))
      rw [if_neg hnot, if_pos hk, if_pos (.inl hk.symm)]
    · rw [if_neg hk]
      simp [Ne.symm hk]

theorem channelsOf_wf (hw : Keyed.wf rows) (node : Nat) : Keyed.wf (channelsOf rows node) := Keyed.wf_filter hw _

theorem mem_channelsOf (hw : Keyed.wf rows) {node : Nat} {e : Nat × ProbeRow} :
    e ∈ channelsOf rows node ↔ rows.get e.1 = some e.2 ∧ e.2.node = node := by
  rw [channelsOf, List.mem_filter, beq_iff_eq]
  exact and_congr_left fun _ => ⟨Keyed.get_of_mem hw, Keyed.mem_of_get⟩

theorem mem_channelsOf_keys (hw : Keyed.wf rows) (hrow : rows.get k = some row) {node : Nat} :
    k ∈ (channelsOf rows node).keys ↔ row.node = node := by
  constructor
  · intro h
    obtain ⟨⟨c, q⟩, he, rfl⟩ := List.mem_map.1 h
    obtain ⟨hq, hnode⟩ := (mem_channelsOf hw).1 he
    rw [hrow] at hq
    cases hq
    exact hnode
  · exact fun h => List.mem_map.2 ⟨(k, row), (mem_channelsOf hw).2 ⟨hrow, h⟩, rfl⟩

/-- Step 1 acts on each channel of the notice's node by the reply taken. -/
theorem applyReply_mine (hw : Keyed.wf rows)
    (hunique : ∀ c q, rows.get c = some q → q.node = row.node → q.slot = row.slot → c = k) (hrow : rows.get k = some row)
    (hnode : row.node = n.node) (readings : Keyed Reading) :
    (applyReply cycle rows n readings).channel k =
      replyStep cycle n row { reading := readings.get k, written := false, lastOk := false } := by
  unfold applyReply replyStep
  cases n.taken with
  | newBlock samples => exact foldl_applySample_mine hw hunique hrow hnode samples _
  | fault code =>
    have hget := get_foldl_modify Reading.toFault (channelsOf rows n.node) (channelsOf_wf hw _) readings k
    rw [if_pos ((mem_channelsOf_keys hw hrow).2 hnode)] at hget
    simp [IntakeWork.channel, hget]
  | nothing => rfl
  | outOfStep => rfl
  | empty => rfl
  | answer => rfl

/-- Step 1 leaves the channels of other nodes. -/
theorem applyReply_other (hw : Keyed.wf rows) (hrow : rows.get k = some row) (hnode : row.node ≠ n.node) (readings : Keyed Reading) :
    (applyReply cycle rows n readings).channel k = { reading := readings.get k, written := false, lastOk := false } := by
  unfold applyReply
  cases n.taken with
  | newBlock samples => exact foldl_applySample_other hw hrow hnode samples _
  | fault code =>
    have hget := get_foldl_modify Reading.toFault (channelsOf rows n.node) (channelsOf_wf hw _) readings k
    rw [if_neg fun h => hnode ((mem_channelsOf_keys hw hrow).1 h)] at hget
    simp [IntakeWork.channel, hget]
  | nothing => rfl
  | outOfStep => rfl
  | empty => rfl
  | answer => rfl

theorem applyForce_other {forces : Keyed Force} {e : Nat × ProbeRow} (h : e.1 ≠ k) :
    (applyForce cycle forces w e).channel k = w.channel k := by
  unfold applyForce
  cases forces.get e.1 with
  | none => rfl
  | some f =>
    obtain ⟨value, kind⟩ := f
    cases kind with
    | pin => simp [IntakeWork.channel, channel_put_other h, Ne.symm h]
    | substitute =>
      dsimp only
      split
      · simp [IntakeWork.channel, channel_put_other h, Ne.symm h]
      · rfl

theorem applyForce_mine {forces : Keyed Force} :
    (applyForce cycle forces w (k, row)).channel k = forceStep cycle row (forces.get k) (w.channel k) := by
  unfold applyForce forceStep
  dsimp only
  cases forces.get k with
  | none => rfl
  | some f =>
    cases hf : f.kind with
    | pin => simp [IntakeWork.channel, Keyed.get_modify, hf]
    | substitute =>
      simp only [hf]
      by_cases hlast : w.lastOk.contains k = true
      · have hlast' : (w.channel k).lastOk = true := hlast
        rw [if_pos hlast, if_pos hlast']
        simp [IntakeWork.channel, Keyed.get_modify]
      · have hlast' : ¬ (w.channel k).lastOk = true := hlast
        rw [if_neg hlast, if_neg hlast']

theorem foldl_applyForce_other {forces : Keyed Force} (chans : Keyed ProbeRow) (h : k ∉ chans.keys) (w : IntakeWork) :
    (chans.foldl (applyForce cycle forces) w).channel k = w.channel k := by
  induction chans generalizing w with
  | nil => rfl
  | cons e chans ih =>
    have hkeys : k ∉ e.1 :: Keyed.keys chans := h
    rw [List.mem_cons, not_or] at hkeys
    rw [List.foldl_cons, ih hkeys.2, applyForce_other (Ne.symm hkeys.1)]

theorem foldl_applyForce_mine {forces : Keyed Force} (chans : Keyed ProbeRow) (hw : Keyed.wf chans) (h : (k, row) ∈ chans)
    (w : IntakeWork) :
    (chans.foldl (applyForce cycle forces) w).channel k = forceStep cycle row (forces.get k) (w.channel k) := by
  induction chans generalizing w with
  | nil => cases h
  | cons e chans ih =>
    obtain ⟨hfirst, hw⟩ := List.pairwise_cons.1 hw
    rw [List.foldl_cons]
    rcases List.mem_cons.1 h with rfl | hmem
    · have hnot : k ∉ Keyed.keys chans := fun hmem => by
        obtain ⟨e', he', heq⟩ := List.mem_map.1 hmem
        exact absurd heq (Nat.ne_of_gt (hfirst e' he'))
      rw [foldl_applyForce_other _ hnot, applyForce_mine]
    · rw [ih hw hmem, applyForce_other (Nat.ne_of_lt (hfirst _ hmem))]

end

section
variable {n : Notice} {s : State} {k : Nat} {row : ProbeRow}

/-- What an intake event does with a channel of its node (R43): the reply, then the force entry. -/
theorem intakeWork_mine (h : s.tb.active.installable) (hrow : s.tb.active.probe.get k = some row) (hnode : row.node = n.node) :
    (intakeWork n s).channel k = forceStep s.ps.cycle row (s.si.forces.get k)
      (replyStep s.ps.cycle n row { reading := s.si.readings.get k, written := false, lastOk := false }) := by
  have hw : Keyed.wf s.tb.active.probe := h.1.2.1.1
  rw [intakeWork, foldl_applyForce_mine _ (channelsOf_wf hw _) ((mem_channelsOf hw).2 ⟨hrow, hnode⟩),
    applyReply_mine hw (fun c q hq hqn hqs => h.channel_unique hq hrow hqn hqs) hrow hnode]

/-- An intake event leaves the channels of other nodes. -/
theorem intakeWork_other (h : s.tb.active.installable) (hrow : s.tb.active.probe.get k = some row) (hnode : row.node ≠ n.node) :
    (intakeWork n s).channel k = { reading := s.si.readings.get k, written := false, lastOk := false } := by
  have hw : Keyed.wf s.tb.active.probe := h.1.2.1.1
  rw [intakeWork, foldl_applyForce_other _ (fun hk => hnode ((mem_channelsOf_keys hw hrow).1 hk)), applyReply_other hw hrow hnode]

end

/-! ### The event's outcome in a reading -/

/-- The records of a slot that write to its channel end with an OK one (R50). -/
def endsOk (mine : List Sample) : Bool :=
  (mine.filter fun x => decide (x.status ≠ .warming)).getLast?.any fun x => decide (x.status = .ok)

/-- What the records of a channel's slot come to (R45 to R47, R50, R51). -/
theorem foldl_sampleStep (cycle : Half) (n : Notice) (row : ProbeRow) (r : Option Reading) (mine : List Sample) :
    mine.foldl (sampleStep cycle n row) { reading := r, written := false, lastOk := false } =
      { reading := r.map fun r => mine.foldl (sampleEffect cycle n row) r
        written := mine.any fun x => decide (x.status = .ok)
        lastOk := endsOk mine } := by
  induction mine using List.reverseRecOn with
  | nil => cases r <;> rfl
  | append_singleton mine x ih =>
    have hread : r.map (fun r => (mine ++ [x]).foldl (sampleEffect cycle n row) r) =
        (r.map fun r => mine.foldl (sampleEffect cycle n row) r).map fun r => sampleEffect cycle n row r x := by
      rw [Option.map_map]
      congr 1
      funext r
      rw [List.foldl_append]
      rfl
    rw [List.foldl_append, ih, hread]
    simp only [List.foldl_cons, List.foldl_nil, sampleStep]
    cases hx : x.status with
    | ok => simp [endsOk, hx]
    | sensorFault => simp [endsOk, hx]
    | warming =>
      have hsame : ∀ r, sampleEffect cycle n row r x = r := fun r => by simp [sampleEffect, hx]
      have hid : (fun r => sampleEffect cycle n row r x) = id := funext hsame
      simp [endsOk, hx, hid]

/-- A channel whose last write in step 1 was an OK sample has been written. -/
theorem any_ok_of_endsOk {mine : List Sample} (h : endsOk mine = true) : mine.any (fun x => decide (x.status = .ok)) = true := by
  obtain ⟨x, hx, hok⟩ := (Option.any_eq_true _ _).1 h
  exact List.any_eq_true.2 ⟨x, List.mem_of_mem_filter (List.mem_of_getLast? hx), hok⟩

/-- The records that the reply taken has for a channel (R44). -/
def Notice.samplesFor (n : Notice) (row : ProbeRow) : List Sample :=
  match n.taken with
  | .newBlock samples => samples.filter fun x => x.slot == row.slot
  | .nothing => []
  | .outOfStep => []
  | .empty => []
  | .fault _ => []
  | .answer => []

/-- The reading that the reply taken leaves in a channel of its node (R43 to R49). -/
def replyReading (cycle : Half) (n : Notice) (row : ProbeRow) (r : Reading) : Reading :=
  match n.taken with
  | .newBlock samples => (samples.filter fun x => x.slot == row.slot).foldl (sampleEffect cycle n row) r
  | .fault _ => r.toFault
  | .nothing => r
  | .outOfStep => r
  | .empty => r
  | .answer => r

theorem replyStep_eq (cycle : Half) (n : Notice) (row : ProbeRow) (r : Option Reading) :
    replyStep cycle n row { reading := r, written := false, lastOk := false } =
      { reading := r.map (replyReading cycle n row)
        written := (n.samplesFor row).any fun x => decide (x.status = .ok)
        lastOk := endsOk (n.samplesFor row) } := by
  obtain ⟨node, line, marked, taken⟩ := n
  cases taken with
  | newBlock samples => exact foldl_sampleStep ..
  | fault code => rfl
  | nothing => cases r <;> rfl
  | outOfStep => cases r <;> rfl
  | empty => cases r <;> rfl
  | answer => cases r <;> rfl

/-- The reading that an intake event leaves in a channel of its node: the reply's, then the force entry's (R50). -/
def takenReading (cycle : Half) (n : Notice) (row : ProbeRow) (f : Option Force) (r : Reading) : Reading :=
  match f with
  | none => replyReading cycle n row r
  | some f =>
    match f.kind with
    | .pin => pinReading cycle row f.value
    | .substitute =>
      if endsOk (n.samplesFor row) = true then { replyReading cycle n row r with quality := .forced, value := some f.value }
      else replyReading cycle n row r

/-- An intake event has written a channel of its node: an OK record of its slot, or a PIN entry (R51). -/
def takenWritten (n : Notice) (row : ProbeRow) (f : Option Force) : Bool :=
  (n.samplesFor row).any (fun x => decide (x.status = .ok)) || f.any fun f => decide (f.kind = .pin)

theorem forceStep_replyStep (cycle : Half) (n : Notice) (row : ProbeRow) (f : Option Force) (r : Option Reading) :
    (forceStep cycle row f (replyStep cycle n row { reading := r, written := false, lastOk := false })).reading =
      r.map (takenReading cycle n row f) ∧
    (forceStep cycle row f (replyStep cycle n row { reading := r, written := false, lastOk := false })).written =
      takenWritten n row f := by
  rw [replyStep_eq]
  rcases f with _ | ⟨value, _ | _⟩
  · exact ⟨rfl, by simp [forceStep, takenWritten]⟩
  · by_cases hlast : endsOk (n.samplesFor row) = true
    · have hwritten := any_ok_of_endsOk hlast
      have htaken : takenReading cycle n row (some ⟨value, .substitute⟩) =
          fun r => { replyReading cycle n row r with quality := .forced, value := some value } := funext fun _ => if_pos hlast
      refine ⟨?_, by simp [forceStep, hlast, takenWritten, hwritten]⟩
      simp only [forceStep, hlast, if_true, htaken, Option.map_map, Function.comp_def]
    · have htaken : takenReading cycle n row (some ⟨value, .substitute⟩) = replyReading cycle n row := funext fun _ => if_neg hlast
      refine ⟨?_, by simp [forceStep, hlast, takenWritten]⟩
      simp only [forceStep, if_neg hlast, htaken]
  · refine ⟨?_, by simp [forceStep, takenWritten]⟩
    simp only [forceStep, Option.map_map]
    rfl

theorem intakeEvent_reading (n : Notice) (s : State) (k : Nat) :
    (intakeEvent n s).si.readings.get k = ((intakeWork n s).channel k).reading := by
  rw [intakeEvent_si]
  rfl

theorem countDown_iterate {r : Reading} (hr : 1 ≤ r.fresh) (i : Nat) : Reading.countDown^[i] r =
    if i < r.fresh then { r with fresh := r.fresh - i } else { r with fresh := 0, quality := .stale } := by
  induction i with
  | zero => exact (if_pos (show 0 < r.fresh from hr)).symm
  | succ i ih =>
    rw [Function.iterate_succ_apply', ih]
    by_cases hi : i < r.fresh
    · rw [if_pos hi]
      by_cases hnext : i + 1 < r.fresh
      · rw [if_pos hnext, Reading.countDown, if_neg (by dsimp only; omega), if_neg (by dsimp only; omega)]
        rfl
      · rw [if_neg hnext, Reading.countDown, if_neg (by dsimp only; omega), if_pos (by dsimp only; omega)]
    · rw [if_neg hi, if_neg (by omega), Reading.countDown, if_pos rfl]

section
variable {n : Notice} {s : State} {k : Nat} {row : ProbeRow}

theorem intakeEvent_mine (h : s.tb.active.installable) (hrow : s.tb.active.probe.get k = some row) (hnode : row.node = n.node) :
    (intakeEvent n s).si.readings.get k =
      (s.si.readings.get k).map (takenReading s.ps.cycle n row (s.si.forces.get k)) := by
  rw [intakeEvent_reading, intakeWork_mine h hrow hnode]
  exact (forceStep_replyStep ..).1

theorem intakeEvent_other (h : s.tb.active.installable) (hrow : s.tb.active.probe.get k = some row) (hnode : row.node ≠ n.node) :
    (intakeEvent n s).si.readings.get k = s.si.readings.get k := by
  rw [intakeEvent_reading, intakeWork_other h hrow hnode]

theorem intakeWork_written (h : s.tb.active.installable) (hrow : s.tb.active.probe.get k = some row) (hnode : row.node = n.node) :
    (intakeWork n s).written.contains k = takenWritten n row (s.si.forces.get k) := by
  have hw := congrArg ChannelWork.written (intakeWork_mine h hrow hnode)
  exact hw.trans (forceStep_replyStep ..).2

end

/-- Settles O34: a channel's reading by `intakeEvent_mine`, the count-down by its iterates. -/
theorem readingEvents : Obligations.ReadingEvents := by
  refine ⟨fun s n k row r hinst hrow hr => ?_, fun s k r hr => ⟨?_, ?_⟩, fun r i hr => countDown_iterate hr i⟩
  · intro after
    have hmine : ∀ f, row.node = n.node → s.si.forces.get k = f → after = some (takenReading s.ps.cycle n row f r) :=
      fun f hnode hf => by
        rw [← hf]
        exact (intakeEvent_mine hinst hrow hnode).trans (congrArg _ hr)
    obtain ⟨node, line, marked, taken⟩ := n
    refine ⟨fun hnode => (intakeEvent_other hinst hrow hnode).trans hr, fun hnode hforce => ?_,
      fun v hnode hforce => hmine _ hnode hforce, fun v hnode hforce => ?_⟩
    · rw [hmine none hnode hforce]
      refine ⟨fun samples ht => ?_, fun code ht => ?_, fun ht => ?_⟩
      · cases ht; rfl
      · cases ht; rfl
      · rcases ht with ht | ht | ht | ht <;> cases ht <;> rfl
    · rw [hmine _ hnode hforce]
      refine ⟨fun samples ht => ?_, fun code ht => ?_, fun ht => ?_⟩
      · cases ht; rfl
      · cases ht; rfl
      · rcases ht with ht | ht | ht | ht <;> cases ht <;> rfl
  · rw [countDown_si]
    exact (Keyed.get_mapRows_const s.si.readings Reading.countDown k).trans (congrArg _ hr)
  · exact (Keyed.get_mapRows_const s.si.readings Reading.atStop k).trans (congrArg _ hr)

end Sys2Proof.Machine

/-! SUPPORT. The completion of an exchange, and the notice the Pair Evaluator gets of it (R11, R14, R51, R156): the statement
O51. -/

namespace Sys2Proof.Machine

theorem sampleOf_eq (y : SampleRecord) : sampleOf y = if y.slot ≤ 3 ∧ y.status ≤ 2 then some
    { slot := y.slot
      status := if y.status = 0 then .ok else if y.status = 1 then .sensorFault else .warming
      raw := y.raw } else none := by
  unfold sampleOf SampleStatus.ofCode
  by_cases hslot : y.slot ≤ 3
  · rw [if_pos hslot]
    by_cases h0 : y.status = 0
    · simp [hslot, h0]
    · by_cases h1 : y.status = 1
      · simp [hslot, h1]
      · by_cases h2 : y.status = 2
        · simp [hslot, h2]
        · rw [if_neg h0, if_neg h1, if_neg h2, if_neg fun h => by omega]
          rfl
  · rw [if_neg hslot, if_neg fun h => hslot h.1]

theorem takeReply_eq (accept : Bool) (preferred : Line) (a b : Conclusion) : takeReply accept preferred a b =
    match (pickLine preferred a b).usable accept, (pickLine (otherLine preferred) a b).usable accept with
    | some (m, r), _ => some (preferred, m, r)
    | none, some (m, r) => some (otherLine preferred, m, r)
    | none, none => none := by
  unfold takeReply
  cases (pickLine preferred a b).usable accept <;> cases (pickLine (otherLine preferred) a b).usable accept <;> rfl

/-! ### The lists of an intake event (R51) -/

section
variable {rows : Keyed ProbeRow} {before after : Keyed Reading} {w : IntakeWork}

theorem mem_lostList (chans : List Nat) (k : Nat) (q : Quality) : (k, q) ∈ lostList chans before after ↔
    k ∈ chans ∧ ∃ r r', before.get k = some r ∧ after.get k = some r' ∧ r.quality.usable = true ∧ r'.quality.usable = false ∧
      q = r'.quality := by
  unfold lostList
  rw [List.mem_filterMap]
  constructor
  · rintro ⟨c, hc, h⟩
    cases hb : before.get c with
    | none => simp [hb] at h
    | some r =>
      cases ha : after.get c with
      | none => simp [hb, ha] at h
      | some r' =>
        simp only [hb, ha] at h
        obtain ⟨husable, heq⟩ := Option.ite_none_right_eq_some.1 h
        cases heq
        rw [Bool.and_eq_true, Bool.not_eq_true'] at husable
        exact ⟨hc, r, r', hb, ha, husable.1, husable.2, rfl⟩
  · rintro ⟨hc, r, r', hb, ha, hu, hu', rfl⟩
    exact ⟨k, hc, by simp [hb, ha, hu, hu']⟩

theorem lostList_pairwise {chans : List Nat} (h : chans.Pairwise (· < ·)) :
    ((lostList chans before after).map fun e => e.1).Pairwise (· < ·) := by
  rw [List.pairwise_map, lostList, List.pairwise_filterMap]
  refine h.imp fun {c c'} hlt e he e' he' => ?_
  have key : ∀ c (e : Nat × Quality), (match before.get c, after.get c with
      | some b, some a => if b.quality.usable && !a.quality.usable then some (c, a.quality) else none
      | _, _ => none) = some e → e.1 = c := fun c e he => by
    cases hb : before.get c with
    | none => simp [hb] at he
    | some r =>
      cases ha : after.get c with
      | none => simp [hb, ha] at he
      | some r' =>
        simp only [hb, ha] at he
        obtain ⟨_, heq⟩ := Option.ite_none_right_eq_some.1 he
        cases heq
        rfl
  rw [key c e he, key c' e' he']
  exact hlt

theorem mem_updatedList (chans : Keyed ProbeRow) (k : Nat) : k ∈ updatedList chans w ↔
    ∃ row r, (k, row) ∈ chans ∧ row.kind = .surfaceTemp ∧ w.written.contains k = true ∧ w.readings.get k = some r ∧
      r.quality.usable = true := by
  unfold updatedList
  rw [List.mem_filterMap]
  constructor
  · rintro ⟨⟨c, row⟩, hc, h⟩
    obtain ⟨⟨hkind, hwritten⟩, h⟩ := Option.ite_none_right_eq_some.1 h
    cases hr : w.readings.get c with
    | none => simp [hr] at h
    | some r =>
      simp only [hr] at h
      obtain ⟨hu, heq⟩ := Option.ite_none_right_eq_some.1 h
      cases heq
      exact ⟨row, r, hc, hkind, hwritten, hr, hu⟩
  · rintro ⟨row, r, hc, hkind, hwritten, hr, hu⟩
    exact ⟨(k, row), hc, by simp only [hr, hu, if_true]; rw [if_pos ⟨hkind, hwritten⟩]⟩

theorem updatedList_pairwise {chans : Keyed ProbeRow} (h : Keyed.wf chans) : (updatedList chans w).Pairwise (· < ·) := by
  rw [updatedList, List.pairwise_filterMap]
  refine h.imp fun {c c'} hlt e he e' he' => ?_
  have key : ∀ (c : Nat × ProbeRow) (e : Nat), (if c.2.kind = .surfaceTemp ∧ w.written.contains c.1 then
      match w.readings.get c.1 with
      | some r => if r.quality.usable then some c.1 else none
      | none => none
      else none) = some e → e = c.1 := fun c e he => by
    obtain ⟨_, he⟩ := Option.ite_none_right_eq_some.1 he
    cases hr : w.readings.get c.1 with
    | none => simp [hr] at he
    | some r =>
      simp only [hr] at he
      obtain ⟨_, heq⟩ := Option.ite_none_right_eq_some.1 he
      cases heq
      rfl
  rw [key c e he, key c' e' he']
  exact hlt

end

theorem takenWritten_iff {n : Notice} {row : ProbeRow} {f : Option Force} : takenWritten n row f = true ↔
    (∃ samples, n.taken = .newBlock samples ∧ ∃ y ∈ samples, y.slot = row.slot ∧ y.status = .ok) ∨
      ∃ v, f = some { value := v, kind := .pin } := by
  have hsamples : (n.samplesFor row).any (fun x => decide (x.status = .ok)) = true ↔
      ∃ samples, n.taken = .newBlock samples ∧ ∃ y ∈ samples, y.slot = row.slot ∧ y.status = .ok := by
    unfold Notice.samplesFor
    cases n.taken <;> simp
  have hpin : f.any (fun f => decide (f.kind = .pin)) = true ↔ ∃ v, f = some { value := v, kind := .pin } := by
    rcases f with _ | ⟨value, _ | _⟩ <;> simp
  rw [takenWritten, Bool.or_eq_true, hsamples, hpin]

theorem contains_iff_mem_nat (l : List Nat) (k : Nat) : l.contains k = true ↔ k ∈ l := by simp

/-- The first of a pair's inputs in the lost list (R102). -/
theorem findSome?_channels (lost : List (Nat × Quality)) (row : PairRow) :
    row.channels.findSome? (fun c => lost.lookup c) =
      match lost.lookup row.airT, lost.lookup row.airRh, lost.lookup row.surface with
      | some q, _, _ => some q
      | none, some q, _ => some q
      | none, none, q => q := by
  unfold PairRow.channels
  simp only [List.findSome?_cons, List.findSome?_nil]
  cases lost.lookup row.airT <;> cases lost.lookup row.airRh <;> cases lost.lookup row.surface <;> rfl

theorem foldl_dropLost_tb (lost : List (Nat × Quality)) (rows : Keyed PairRow) (s : State) :
    (rows.foldl (dropLost lost) s).tb = s.tb :=
  (foldl_keeps PairsOnly PairsOnly.refl PairsOnly.trans _ (dropLost_only lost) rows s).keeps.2.2.2.2.1

theorem pairNotice_eq (lost : List (Nat × Quality)) (updated : List Nat) (s : State) : pairNotice lost updated s =
    s.tb.active.pair.foldl (evaluatePair updated) (s.tb.active.pair.foldl (dropLost lost) s) := by
  exact congrArg (fun tb : TableStore => tb.active.pair.foldl (evaluatePair updated) (s.tb.active.pair.foldl (dropLost lost) s))
    (foldl_dropLost_tb lost s.tb.active.pair s)

theorem dropPair_judged {s : State} {p : Nat} {r : PairRecord} {l : Level} (hr : s.pe.pairs.get p = some r)
    (hl : r.state = .judged l) (row : PairRow) (reason : Reason) :
    dropPair p row reason s = writePair p row (r.toUnknown reason) s := by
  simp only [dropPair, hr, hl]

theorem dropPair_same {s : State} {p : Nat} (h : ∀ r l, s.pe.pairs.get p = some r → r.state ≠ .judged l) (row : PairRow)
    (reason : Reason) : dropPair p row reason s = s := by
  unfold dropPair
  cases hr : s.pe.pairs.get p with
  | none => rfl
  | some r =>
    cases hl : r.state with
    | unknown reason => simp only [hl]
    | judged l => exact absurd hl (h r l hr)

/-- Settles O51: the notice and the result by the reply taken, the lists by their members, a pair's steps by their checks. -/
theorem exchangeCompletes : Obligations.ExchangeCompletes := by
  intro s x a b
  refine ⟨fun r hkind hr => ?_, fun q hkind hq => ?_, fun accept preferred => takeReply_eq accept preferred a b,
    fun n hinst => ?_, fun lost updated => ⟨pairNotice_eq lost updated s, fun p row => ?_⟩⟩
  · intro taken notice
    have hnotice : noticeOf r x a b = notice := by
      have htaken : takeReply x.acceptMarked r.activeLine a b = taken := rfl
      simp only [noticeOf, htaken, notice]
      rcases taken with _ | ⟨line, marked, reply⟩
      · rfl
      · cases reply with
        | data t records =>
          simp only [takenOf, sampleOf_eq]
          rfl
        | empty => rfl
        | fault code => rfl
        | answer bytes => rfl
    unfold completeExchange
    rw [hkind]
    dsimp only [completePoll]
    rw [State.node_of_get hr, hnotice]
  · intro preferred taken result
    have hpreferred : (s.node x.node).activeLine = preferred := by
      simp only [State.node, preferred]
      cases s.ti.nodes.get x.node <;> rfl
    have hresult : relayResult s.ps.cycle q preferred a b = result := by
      have htaken : takeReply false preferred a b = taken := rfl
      simp only [relayResult, htaken, result]
      rcases taken with _ | ⟨line, marked, reply⟩
      · rfl
      · cases reply <;> rfl
    unfold completeExchange completeRelay
    rw [hkind]
    simp only [State.setTi_ru, hq]
    rw [← hresult, ← hpreferred]
    rfl
  · intro after
    have hw : Keyed.wf s.tb.active.probe := hinst.1.2.1.1
    have hafter : (intakeWork n s).readings = after := by
      have h : after = (intakeEvent n s).si.readings := rfl
      rw [h, intakeEvent_si]
    have hmine : ∀ k row, (k, row) ∈ channelsOf s.tb.active.probe n.node ↔ s.tb.active.probe.get k = some row ∧ row.node = n.node :=
      fun k row => mem_channelsOf hw
    refine ⟨lostList (channelsOf s.tb.active.probe n.node).keys s.si.readings after,
      updatedList (channelsOf s.tb.active.probe n.node) (intakeWork n s), fun k q => ?_, fun k => ?_,
      lostList_pairwise (Keyed.wf_iff_keys.1 (channelsOf_wf hw _)), updatedList_pairwise (channelsOf_wf hw _), ?_⟩
    · rw [mem_lostList]
      constructor
      · rintro ⟨hk, r, r', hr, hr', hu⟩
        obtain ⟨⟨c, row⟩, hmem, rfl⟩ := List.mem_map.1 hk
        obtain ⟨hrow, hnode⟩ := (hmine c row).1 hmem
        exact ⟨row, r, r', hrow, hnode, hr, hr', hu⟩
      · rintro ⟨row, r, r', hrow, hnode, hr, hr', hu⟩
        exact ⟨(mem_channelsOf_keys hw hrow).2 hnode, r, r', hr, hr', hu⟩
    · rw [mem_updatedList, hafter]
      constructor
      · rintro ⟨row, r, hmem, hkind, hwritten, hr, hu⟩
        obtain ⟨hrow, hnode⟩ := (hmine k row).1 hmem
        rw [intakeWork_written hinst hrow hnode] at hwritten
        exact ⟨row, r, hrow, hnode, hkind, hr, hu, takenWritten_iff.1 hwritten⟩
      · rintro ⟨row, r, hrow, hnode, hkind, hr, hu, hwritten⟩
        refine ⟨row, r, (hmine k row).2 ⟨hrow, hnode⟩, hkind, ?_, hr, hu⟩
        rw [intakeWork_written hinst hrow hnode]
        exact takenWritten_iff.2 hwritten
    · rw [← hafter]
      rfl
  · intro written first
    have hfirst : row.channels.findSome? (fun c => lost.lookup c) = first := findSome?_channels lost row
    refine ⟨fun q r l hq hqual hr hl => ?_, fun h => ?_, fun r hmem hr => ?_, fun h => ?_⟩
    · have hreason : dropReason q = if q = .fault then .inputFault else .inputStale := by
        rcases hqual with rfl | rfl <;> rfl
      simp only [dropLost, hfirst, hq]
      rw [dropPair_judged hr hl, hreason]
      rfl
    · simp only [dropLost, hfirst]
      cases hq : first with
      | none => rfl
      | some q =>
        rcases h with h | h
        · rw [hq] at h; cases h
        · exact dropPair_same h row _
    · simp only [evaluatePair]
      rw [if_pos ((contains_iff_mem_nat _ _).2 hmem)]
      simp only [hr]
      rfl
    · simp only [evaluatePair]
      rcases h with h | h
      · rw [if_neg fun hc => h ((contains_iff_mem_nat _ _).1 hc)]
      · split
        · simp only [h]
        · rfl

end Sys2Proof.Machine

/-! SUPPORT. The changes of the records: what any command does to the records that follow the tables, one change at a time. The
invariants of the records are read off these changes. -/

namespace Sys2Proof.Machine

/-! ### The changes -/

/-- The active tables and the records are those of another state, but for the contents of Node State. -/
structure SameRecords (s t : State) : Prop where
  active : t.tb.active = s.tb.active
  nodes : t.ti.nodes.keys = s.ti.nodes.keys
  si : t.si = s.si
  pe : t.pe = s.pe
  zones : t.zm.zones = s.zm.zones
  alerts : t.zm.alerts = s.zm.alerts

theorem SameRecords.refl (s : State) : SameRecords s s := ⟨rfl, rfl, rfl, rfl, rfl, rfl⟩

theorem SameRecords.trans {s t u : State} (h : SameRecords s t) (k : SameRecords t u) : SameRecords s u :=
  ⟨k.active.trans h.active, k.nodes.trans h.nodes, k.si.trans h.si, k.pe.trans h.pe, k.zones.trans h.zones,
    k.alerts.trans h.alerts⟩

/-- A change of the records that no event of the cycle brings: none, or a request's (R34, R59, R63, R64, R114). -/
inductive QuietChange : State → State → Prop
  | same {s t : State} (h : SameRecords s t) : QuietChange s t
  | skip (s : State) (node : Nat) (r r' : NodeRecord) (hr : s.ti.nodes.get node = some r) :
      QuietChange s (s.setTi { s.ti with nodes := s.ti.nodes.put node r' })
  | forceSet (s : State) (k : Nat) (row : ProbeRow) (f : Force) (hrow : s.tb.active.probe.get k = some row)
      (hrange : row.kind.inRange f.value = true)
      (hroom : s.si.forces.length < Config.forceEntries ∨ (s.si.forces.get k).isSome = true) :
      QuietChange s (s.setSi { s.si with forces := s.si.forces.put k f })
  | forcesCut (s : State) (forces : Keyed Force) (h : forces.Sublist s.si.forces) :
      QuietChange s (s.setSi { s.si with forces := forces })
  | alertsTaken (s : State) (n : Nat) : QuietChange s (s.setZm { s.zm with alerts := s.zm.alerts.drop n })

/-- A change of the records: a quiet one, an intake event, a count-down, the work of the stop, or the taking of a commit of tables
that `ok` lets through. -/
inductive RecordChange (ok : Tables → Prop) : State → State → Prop
  | quiet {s t : State} (h : QuietChange s t) : RecordChange ok s t
  | intake (s : State) (n : Notice) : RecordChange ok s (intakeEvent n s)
  | countDown (s : State) : RecordChange ok s (countDown s)
  | stopWork (s : State) : RecordChange ok s (stopWork s)
  | commit (s : State) (c : Tables) (hc : ok c) : RecordChange ok s (takeCommit c s)

/-- The records change step by step. -/
abbrev RecordChanges (ok : Tables → Prop) : State → State → Prop := Relation.ReflTransGen (RecordChange ok)

/-- The records change step by step, quietly. -/
abbrev QuietChanges : State → State → Prop := Relation.ReflTransGen QuietChange

theorem QuietChanges.of_same {s t : State} (h : SameRecords s t) : QuietChanges s t := .single (.same h)

theorem RecordChanges.of_same {ok : Tables → Prop} {s t : State} (h : SameRecords s t) : RecordChanges ok s t :=
  .single (.quiet (.same h))

/-- What every change keeps, the changes keep. -/
theorem changes_law {r : State → State → Prop} {P : State → Prop} (hP : ∀ {s t}, r s t → P s → P t) {s t : State}
    (h : Relation.ReflTransGen r s t) (hs : P s) : P t :=
  Relation.ReflTransGen.rec (motive := fun t _ => P t) hs (fun _ hc ih => hP hc ih) h

/-! ### The parts of a cycle -/

/-- The tables of a pending commit pass. -/
def PendingOk (ok : Tables → Prop) (s : State) : Prop := ∀ c ∈ s.tb.pendingCommit, ok c

theorem breakSummary_same (s : State) : SameRecords s (breakSummary s) := by
  rw [breakSummary_eq]
  split <;> exact ⟨rfl, rfl, rfl, rfl, rfl, rfl⟩

theorem stopping_same (s : State) : SameRecords s (stopping s) := by
  obtain ⟨hactive, hnodes, hsi, hpe, hzones, halerts⟩ := breakSummary_same s
  exact ⟨hactive, hnodes, hsi, hpe, hzones, halerts⟩

theorem Sent.same {rows : Keyed PollRow} {s t : State} (h : Sent rows s t) : SameRecords s t := by
  cases h with
  | poll _ _ _ _ _ hkeys => exact ⟨rfl, hkeys, rfl, rfl, rfl, rfl⟩
  | relay _ _ _ _ _ _ _ hkeys => exact ⟨rfl, hkeys, rfl, rfl, rfl, rfl⟩

theorem Completed.same {s t : State} (h : Completed s t) : SameRecords s t := by
  obtain ⟨hzones, halerts⟩ := zoneCompletion_frame s
  cases h with
  | mk _ hkeys => exact ⟨rfl, hkeys, rfl, rfl, hzones, halerts⟩

section
variable {ok : Tables → Prop}

/-- The law that a state's records come by changes from those of `s`. -/
def ChangedFrom (ok : Tables → Prop) (s t : State) : Prop := PendingOk ok t ∧ RecordChanges ok s t

theorem ChangedFrom.same {s t u : State} (h : ChangedFrom ok s t) (hpending : u.tb.pendingCommit = t.tb.pendingCommit)
    (hsame : SameRecords t u) : ChangedFrom ok s u :=
  ⟨fun c hc => h.1 c (hpending ▸ hc), h.2.trans (RecordChanges.of_same hsame)⟩

theorem ChangedFrom.work {s t u : State} (h : ChangedFrom ok s t) (honly : ReadingsOnly t u) (hc : RecordChange ok t u) :
    ChangedFrom ok s u :=
  ⟨fun c hc => h.1 c (by rw [← honly.keeps.2.2.2.1]; exact hc), h.2.tail hc⟩

/-- A boundary changes the records by its work and by the pending commit. -/
theorem boundary_changed {work : State → State} (honly : ∀ s, ReadingsOnly s (work s))
    (hwork : ∀ s, RecordChange ok s (work s)) {s t : State} (h : ChangedFrom ok s t) : ChangedFrom ok s (boundary work t) :=
  boundary_law (P := ChangedFrom ok s) honly
    (fun {u} h => h.same (u := u.nextOrder) rfl ⟨rfl, rfl, rfl, rfl, rfl, rfl⟩) (fun {u} h => h.work (honly u) (hwork u))
    (fun {_ c} hc h => ⟨fun _ hnone => (by cases hnone), h.2.tail (.commit _ c (h.1 c hc))⟩) h

/-- Every part of a cycle changes the records. -/
theorem changedFrom_law (s : State) : CycleLaw (ChangedFrom ok s) where
  start := fun {t} h =>
    have hbegun := h.same (u := t.setPs { t.ps with cycle := t.ps.cycle + 1, phase := .walking, position := none }) rfl
      ⟨rfl, rfl, rfl, rfl, rfl, rfl⟩
    (boundary_changed countDown_only .countDown hbegun).same (u := cycleStart t) rfl ⟨rfl, rfl, rfl, rfl, rfl, rfl⟩
  sent := fun k h => h.same (by cases k <;> rfl) k.same
  completed := fun k h => h.same (by cases k; rfl) k.same
  stop := fun {t} h => by
    rw [stop_eq]
    refine boundary_changed stopWork_only .stopWork (h.same ?_ (stopping_same t))
    rw [(stopping_keeps t).2.2.2.1]
  ps := fun {t} _ _ _ h => h.same (u := t.setPs _) rfl ⟨rfl, rfl, rfl, rfl, rfl, rfl⟩

/-- An exchange's completion changes the records by its intake event at most. -/
theorem completeExchange_changed {s t : State} (x : Exchange) (a b : Conclusion) (h : ChangedFrom ok s t) :
    ChangedFrom ok s (completeExchange x a b t) := by
  rcases completeExchange_cases x a b t with ⟨_, n, nodes, hkeys, e⟩ | ⟨_, _, e⟩ | ⟨q, r, _, _, _, e⟩ <;> rw [e]
  · have hset := h.same (u := t.setTi { t.ti with exchange := none, nodes := nodes }) rfl ⟨rfl, hkeys, rfl, rfl, rfl, rfl⟩
    exact hset.work (intakeEvent_only n _) (.intake _ n)
  · exact h.same (u := t.setTi { t.ti with exchange := none }) rfl ⟨rfl, rfl, rfl, rfl, rfl, rfl⟩
  · exact h.same (u := (t.setTi { t.ti with exchange := none }).setRu _) rfl ⟨rfl, rfl, rfl, rfl, rfl, rfl⟩

end

/-! ### The requests -/

theorem abandon_active_pending (tb : TableStore) : tb.abandon.active = tb.active ∧ tb.abandon.pendingCommit = tb.pendingCommit := by
  unfold TableStore.abandon
  split <;> exact ⟨rfl, rfl⟩

theorem abandonLoad_same (s : State) : SameRecords s (abandonLoad s) :=
  ⟨(abandon_active_pending s.tb).1, rfl, rfl, rfl, rfl, rfl⟩

theorem closeSummary_same (s : State) : SameRecords s (closeSummary s) := by
  rw [closeSummary_eq]
  exact ⟨rfl, rfl, rfl, rfl, rfl, rfl⟩

theorem takeBatch_same (position : Nat) (s : State) : SameRecords s (takeBatch position s) := by
  rcases takeBatch_cases position s with e | ⟨_, e⟩ <;> rw [e]
  · exact closeSummary_same s
  · exact ⟨rfl, rfl, rfl, rfl, rfl, rfl⟩

/-- What a request does to the records: a quiet change, or in IDLE the taking of a commit. -/
theorem Served.records {r : Option Request} {s t : State} (h : Served r s t) : QuietChange s t ∨
    (s.mc.mode = .idle ∧ crossCheck s.tb.candidate = none ∧ t = takeCommit s.tb.candidate s) := by
  cases h with
  | skip _ node n record hr => exact .inl (.skip s node record _ hr)
  | forceSet _ k row f hrow hrange hroom => exact .inl (.forceSet s k row f hrow hrange hroom)
  | forceClearAll => exact .inl (.forcesCut s [] (List.nil_sublist _))
  | forceClear _ k => exact .inl (.forcesCut s (s.si.forces.del k) List.filter_sublist)
  | summaryOpen =>
    have hset : SameRecords s (s.setZm { s.zm with summary := { isOpen := true, nextRecord := 0, held := 0, broken := false } }) :=
      ⟨rfl, rfl, rfl, rfl, rfl, rfl⟩
    exact .inl (.same (hset.trans (takeBatch_same 0 _)))
  | summaryNext => exact .inl (.same (takeBatch_same _ s))
  | summaryClose => exact .inl (.same (closeSummary_same s))
  | takeAlerts => exact .inl (.alertsTaken s 8)
  | loadOpen => exact .inl (.same ⟨(abandon_active_pending s.tb).1, rfl, rfl, rfl, rfl, rfl⟩)
  | loadAbandon => exact .inl (.same (abandonLoad_same s))
  | commitTaken _ _ _ _ hcheck hidle => exact .inr ⟨hidle, hcheck, rfl⟩
  | _ => exact .inl (.same ⟨rfl, rfl, rfl, rfl, rfl, rfl⟩)

theorem Served.pendingOk {ok : Tables → Prop} {r : Option Request} {s t : State} (h : Served r s t)
    (hcandidate : crossCheck s.tb.candidate = none → ok s.tb.candidate) (hpending : PendingOk ok s) : PendingOk ok t := by
  have kept : ∀ {u : State}, u.tb.pendingCommit = s.tb.pendingCommit → PendingOk ok u := fun e c hc => hpending c (e ▸ hc)
  cases h with
  | summaryOpen => exact kept (congrArg (·.pendingCommit) (takeBatch_only 0 (s.setZm _)).keeps.2.2.2.2.2.1)
  | summaryNext => exact kept (congrArg (·.pendingCommit) (takeBatch_only _ s).keeps.2.2.2.2.2.1)
  | summaryClose => exact kept (congrArg (·.pendingCommit) (closeSummary_only s).keeps.2.2.2.2.2.1)
  | loadOpen => exact kept (abandon_active_pending s.tb).2
  | loadAbandon => exact kept (abandon_active_pending s.tb).2
  | commitTaken => exact fun c hc => by cases hc
  | commitPending _ _ _ hcheck => exact fun c hc => by cases hc; exact hcandidate hcheck
  | _ => exact hpending

/-! ### Any command -/

theorem CycleStep.start_iff {s t : State} (h : CycleStep s t) : t.mc.mode = .start ↔ s.mc.mode = .start := by
  rcases h.mc with e | ⟨hm, e⟩ <;> rw [e]
  rw [hm]
  simp

theorem Served.start_iff {r : Option Request} {s t : State} (h : Served r s t) : t.mc.mode = .start ↔ s.mc.mode = .start := by
  by_cases hr : r = some .mode
  · subst hr
    rcases h.mode_cases with e | ⟨e, e'⟩ | ⟨e, e'⟩ | ⟨e, e'⟩
    · rw [e]
    all_goals rw [e, e']; simp
  · rw [h.control.2.2.2.2.2.2.2.2.2 hr]

/-- The records after a command: those of an entry to START, changes from those that the end of START builds, or changes from those
there were. -/
inductive RecordsAfter (ok : Tables → Prop) (s : State) : State → Prop
  | entered (reason : StartReason) (u : State) : RecordsAfter ok s (enterStart reason u)
  | built (m : Mode) (t : State) (hstart : s.mc.mode = .start) (h : RecordChanges ok (started m s) t) : RecordsAfter ok s t
  | changed (t : State) (hmode : t.mc.mode = .start ↔ s.mc.mode = .start) (h : RecordChanges ok s t) : RecordsAfter ok s t

theorem exec_records {ok : Tables → Prop} {c : Instr} {s t : State} (hpending : PendingOk ok s)
    (hcandidate : crossCheck s.tb.candidate = none → ok s.tb.candidate) (he : exec c s = .next t) : RecordsAfter ok s t := by
  have law := changedFrom_law (ok := ok) s
  have here : ChangedFrom ok s s := ⟨hpending, .refl⟩
  have same : ∀ {u : State}, u.mc.mode = s.mc.mode → SameRecords s u → RecordsAfter ok s u := fun hm h =>
    .changed _ (by rw [hm]) (.of_same h)
  have cycle : ∀ {u : State}, CycleStep s u → ChangedFrom ok s u → RecordsAfter ok s u := fun hstep h =>
    .changed _ hstep.start_iff h.2
  cases exec_effect he with
  | powerStart => exact .entered _ _
  | resetStart => exact .entered _ _
  | restart => exact .entered _ _
  | startUp _ _ hstart =>
    have hbuilt : ∀ m, ChangedFrom ok (started m s) (started m s) := fun m => ⟨hpending, .refl⟩
    rw [endStart_eq]
    split
    · exact .built .survey _ hstart ((changedFrom_law _).openCycle (hbuilt _)).2
    · exact .built .idle _ hstart .refl
  | written _ _ result => unfold writeEnds; split <;> exact same rfl ⟨rfl, rfl, rfl, rfl, rfl, rfl⟩
  | timer => exact cycle (timerExpires_step s) (law.timerExpires here)
  | frameStarts => rcases frameStarts_cases s with e | ⟨_, _, _, e⟩ <;> rw [e] <;> exact same rfl ⟨rfl, rfl, rfl, rfl, rfl, rfl⟩
  | frameSent => rcases frameSent_cases s with e | ⟨_, _, _, e⟩ <;> rw [e] <;> exact same rfl ⟨rfl, rfl, rfl, rfl, rfl, rfl⟩
  | line _ _ _ f hc =>
    refine cycle (whileListening_step hc s) (law.whileListening (fun x h => ?_) (fun x a b h => completeExchange_changed x a b h) hc here)
    exact h.same (u := State.setTi _ _) rfl ⟨rfl, rfl, rfl, rfl, rfl, rfl⟩
  | loadTimeout => exact same rfl (abandonLoad_same s)
  | lineBreak =>
    have hbreak := (abandonLoad_same s).trans (breakSummary_same (abandonLoad s))
    have hmc : (breakSummary (abandonLoad s)).mc = s.mc := (breakSummary_only (abandonLoad s)).keeps.2.2.2.2.2.2.2.2.1
    exact same (congrArg (·.mode) hmc) ⟨hbreak.1, hbreak.2, hbreak.3, hbreak.4, hbreak.5, hbreak.6⟩
  | request _ _ _ _ a code r p =>
    have hserved := judgeRequest_served r p s
    have hmode : (Request.follow r (respond a code (judgeRequest r p s))).mc.mode = .start ↔ s.mc.mode = .start :=
      (follow_step r _).start_iff.trans hserved.start_iff
    have hrespond : ChangedFrom ok s (respond a code (judgeRequest r p s)) := by
      refine ⟨hserved.pendingOk hcandidate hpending, ?_⟩
      have hlast : SameRecords (judgeRequest r p s).state (respond a code (judgeRequest r p s)) := ⟨rfl, rfl, rfl, rfl, rfl, rfl⟩
      refine Relation.ReflTransGen.trans (.single ?_) (RecordChanges.of_same hlast)
      rcases hserved.records with h | ⟨_, hcheck, h⟩
      · exact .quiet h
      · rw [h]; exact .commit s _ (hcandidate hcheck)
    exact .changed _ hmode (law.follow r hrespond).2
  | _ => exact same rfl ⟨rfl, rfl, rfl, rfl, rfl, rfl⟩

end Sys2Proof.Machine

/-! SUPPORT. The invariants that no reading's quality enters: the records follow the tables (R17, R39, R85, R109), and the laws of the
Pair Status records (R85, R87, R99), of the Zone Status records (R110) and of the Alert Queue (R113, R116): the statements O10,
O12, O14 and O15. -/

namespace Sys2Proof.Machine

/-! ### A law over the changes -/

theorem applySample_keys (cycle : Half) (rows : Keyed ProbeRow) (n : Notice) (w : IntakeWork) (x : Sample) :
    (applySample cycle rows n w x).readings.keys = w.readings.keys := by
  unfold applySample
  split
  · rfl
  · split <;> simp

theorem foldl_applySample_keys (cycle : Half) (rows : Keyed ProbeRow) (n : Notice) (samples : List Sample) (w : IntakeWork) :
    (samples.foldl (applySample cycle rows n) w).readings.keys = w.readings.keys := by
  induction samples generalizing w with
  | nil => rfl
  | cons x samples ih => rw [List.foldl_cons, ih, applySample_keys]

theorem foldl_modify_keys (f : Reading → Reading) (chans : Keyed ProbeRow) (readings : Keyed Reading) :
    (chans.foldl (fun rs e => rs.modify e.1 f) readings).keys = readings.keys := by
  induction chans generalizing readings with
  | nil => rfl
  | cons e chans ih => rw [List.foldl_cons, ih, Keyed.keys_modify]

theorem applyReply_keys (cycle : Half) (rows : Keyed ProbeRow) (n : Notice) (readings : Keyed Reading) :
    (applyReply cycle rows n readings).readings.keys = readings.keys := by
  unfold applyReply
  cases n.taken with
  | newBlock samples => exact foldl_applySample_keys ..
  | fault code => exact foldl_modify_keys ..
  | _ => rfl

theorem applyForce_keys (cycle : Half) (forces : Keyed Force) (w : IntakeWork) (e : Nat × ProbeRow) :
    (applyForce cycle forces w e).readings.keys = w.readings.keys := by
  unfold applyForce
  split
  · rfl
  · split
    · simp
    · split <;> simp

theorem foldl_applyForce_keys (cycle : Half) (forces : Keyed Force) (chans : Keyed ProbeRow) (w : IntakeWork) :
    (chans.foldl (applyForce cycle forces) w).readings.keys = w.readings.keys := by
  induction chans generalizing w with
  | nil => rfl
  | cons e chans ih => rw [List.foldl_cons, ih, applyForce_keys]

/-- An intake event leaves the channels that have a reading. -/
theorem intakeWork_keys (n : Notice) (s : State) : (intakeWork n s).readings.keys = s.si.readings.keys := by
  rw [intakeWork, foldl_applyForce_keys, applyReply_keys]

/-- A law that looks at the readings' channels alone is kept by every change when quiet changes, a change of a pair and a commit keep
it. -/
theorem RecordChange.law {ok : Tables → Prop} {P : State → Prop} (hquiet : ∀ {s t}, QuietChange s t → P s → P t)
    (hsi : ∀ {s} (x : IntakeState), x.readings.keys = s.si.readings.keys → P s → P (s.setSi x))
    (hpair : ∀ {s t}, PairChange s t → P s → P t) (hcommit : ∀ {s c}, ok c → P s → P (takeCommit c s)) {s t : State}
    (h : RecordChange ok s t) (hs : P s) : P t := by
  cases h with
  | quiet h => exact hquiet h hs
  | intake n => exact (pairNotice_changes _ _ (s.setSi _)).law hpair (hsi _ (intakeWork_keys n s) hs)
  | countDown => exact (pairNotice_changes _ _ (s.setSi _)).law hpair (hsi _ (Keyed.keys_mapRows s.si.readings fun _ r => r.countDown) hs)
  | stopWork => exact (stopPairs_changes (s.setSi _)).law hpair (hsi _ (Keyed.keys_mapRows s.si.readings fun _ r => r.atStop) hs)
  | commit c hc => exact hcommit hc hs

/-! ### A change of a pair -/

theorem Keyed.mem_put {α : Type} {t : Keyed α} {k : Nat} {v : α} {e : Nat × α} (h : e ∈ t.put k v) : e = (k, v) ∨ e ∈ t := by
  induction t with
  | nil => exact .inl (by simpa [Keyed.put] using h)
  | cons x t ih =>
    obtain ⟨j, w⟩ := x
    rw [Keyed.put] at h
    split at h
    · simpa using h
    · split at h
      · rcases List.mem_cons.1 h with h | h
        · exact .inl h
        · exact .inr (List.mem_cons_of_mem _ h)
      · rcases List.mem_cons.1 h with h | h
        · exact .inr (by simp [h])
        · exact (ih h).imp_right (List.mem_cons_of_mem _)

/-- A notice writes one zone's record at most, and its alert. -/
theorem zoneNotice_cases (zone : Nat) (s : State) : zoneNotice zone s = s ∨
    ∃ row before, s.tb.active.zone.get zone = some row ∧ s.zm.zones.get zone = some before ∧ zoneNotice zone s =
      s.setZm { s.zm with
        zones := s.zm.zones.put zone (s.zoneRecord zone row)
        alerts := alertIfMoved s.ps.cycle zone before (s.zoneRecord zone row) s.zm.alerts } := by
  unfold zoneNotice
  split
  · exact .inr ⟨_, _, ‹_›, ‹_›, rfl⟩
  · exact .inl rfl

theorem zoneNotice_frame (zone : Nat) (s : State) : (zoneNotice zone s).tb = s.tb ∧ (zoneNotice zone s).ti = s.ti ∧
    (zoneNotice zone s).si = s.si ∧ (zoneNotice zone s).pe = s.pe := by
  rcases zoneNotice_cases zone s with h | ⟨_, _, _, _, h⟩ <;> rw [h] <;> exact ⟨rfl, rfl, rfl, rfl⟩

theorem zoneNotice_zones_keys {s : State} (hw : Keyed.wf s.zm.zones) (zone : Nat) :
    (zoneNotice zone s).zm.zones.keys = s.zm.zones.keys := by
  rcases zoneNotice_cases zone s with h | ⟨row, before, _, hbefore, h⟩ <;> rw [h]
  exact Keyed.keys_put_of_mem hw (Keyed.get_isSome_iff.1 (by rw [hbefore]; rfl)) _

/-- A change of a pair writes the record of one pair that has one, and gives its zone's notice. -/
theorem pairChange_exists_write {s t : State} (h : PairChange s t) : ∃ e ∈ s.tb.active.pair, ∃ r r',
    s.pe.pairs.get e.1 = some r ∧ t = writePair e.1 e.2 r' s ∧
    (r' = evaluated s e.2 r ∨ ∃ reason, r' = r.toUnknown reason) := by
  cases h with
  | evaluated e he r hr => exact ⟨e, he, r, _, hr, rfl, .inl rfl⟩
  | dropped e he r hr l hl reason => exact ⟨e, he, r, _, hr, rfl, .inr ⟨reason, rfl⟩⟩

/-! ### The records follow the tables (R17, R39, R85, R109) -/

/-- The tables are installable and each row or node that has a record has one, and no other. -/
structure Follows (s : State) : Prop where
  tables : s.tb.active.installable
  nodesWf : Keyed.wf s.ti.nodes
  nodes : ∀ n, n ∈ s.ti.nodes.keys ↔ n ∈ pollNodes s.tb.active.poll
  readings : s.si.readings.keys = s.tb.active.probe.keys
  pairs : s.pe.pairs.keys = s.tb.active.pair.keys
  zones : s.zm.zones.keys = s.tb.active.zone.keys

theorem follows_iff {s : State} (h : s.tb.active.installable) (hmode : s.mc.mode ≠ .start) : Follows s ↔ RecordsFollowTables s :=
  ⟨fun ⟨_, hw, hn, hr, hp, hz⟩ _ => ⟨hw, fun n => (hn n).1, fun n => (hn n).2, hr, hp, hz⟩, fun k =>
    let ⟨hw, hn, hn', hr, hp, hz⟩ := k hmode
    ⟨h, hw, fun n => ⟨hn n, hn' n⟩, hr, hp, hz⟩⟩

section
variable {s : State}

theorem Follows.probeWf (h : Follows s) : Keyed.wf s.tb.active.probe := h.tables.1.2.1.1
theorem Follows.pairWf (h : Follows s) : Keyed.wf s.tb.active.pair := h.tables.1.2.2.1.1
theorem Follows.zoneWf (h : Follows s) : Keyed.wf s.tb.active.zone := h.tables.1.2.2.2.1.1

theorem Keyed.wf_of_keys {α β : Type} {t : Keyed α} {u : Keyed β} (h : t.keys = u.keys) (hw : Keyed.wf u) : Keyed.wf t := by
  rw [Keyed.wf_iff_keys] at hw ⊢
  rw [h]
  exact hw

theorem Follows.readingsWf (h : Follows s) : Keyed.wf s.si.readings := Keyed.wf_of_keys h.readings h.probeWf
theorem Follows.pairsWf (h : Follows s) : Keyed.wf s.pe.pairs := Keyed.wf_of_keys h.pairs h.pairWf
theorem Follows.zonesWf (h : Follows s) : Keyed.wf s.zm.zones := Keyed.wf_of_keys h.zones h.zoneWf

theorem Follows.same {t : State} (h : Follows s) (k : SameRecords s t) : Follows t := by
  obtain ⟨hactive, hnodes, hsi, hpe, hzones, _⟩ := k
  exact ⟨hactive ▸ h.tables, Keyed.wf_of_keys hnodes h.nodesWf, fun n => by rw [hnodes, hactive]; exact h.nodes n,
    by rw [hsi, hactive]; exact h.readings, by rw [hpe, hactive]; exact h.pairs, by rw [hzones, hactive]; exact h.zones⟩

theorem Follows.quiet {t : State} (k : QuietChange s t) (h : Follows s) : Follows t := by
  cases k with
  | same k => exact h.same k
  | skip node r r' hr =>
    have hkeys := Keyed.keys_put_of_mem h.nodesWf (Keyed.get_isSome_iff.1 (by rw [hr]; rfl)) r'
    exact h.same ⟨rfl, hkeys, rfl, rfl, rfl, rfl⟩
  | forceSet => exact ⟨h.tables, h.nodesWf, h.nodes, h.readings, h.pairs, h.zones⟩
  | forcesCut => exact ⟨h.tables, h.nodesWf, h.nodes, h.readings, h.pairs, h.zones⟩
  | alertsTaken => exact ⟨h.tables, h.nodesWf, h.nodes, h.readings, h.pairs, h.zones⟩

theorem Follows.pairChange {t : State} (k : PairChange s t) (h : Follows s) : Follows t := by
  obtain ⟨e, he, r, r', hr, rfl, _⟩ := pairChange_exists_write k
  have hkeys := Keyed.keys_put_of_mem h.pairsWf (Keyed.get_isSome_iff.1 (by rw [hr]; rfl)) r'
  obtain ⟨htb, hti, hsi, hpe⟩ := zoneNotice_frame e.2.zone (s.setPe { s.pe with pairs := s.pe.pairs.put e.1 r' })
  have hzones := zoneNotice_zones_keys (s := s.setPe { s.pe with pairs := s.pe.pairs.put e.1 r' }) h.zonesWf e.2.zone
  unfold writePair
  refine ⟨by rw [htb]; exact h.tables, by rw [hti]; exact h.nodesWf, fun n => by rw [hti, htb]; exact h.nodes n,
    by rw [hsi, htb]; exact h.readings, ?_, ?_⟩
  · rw [hpe, htb]; exact hkeys.trans h.pairs
  · rw [hzones, htb]; exact h.zones

end

theorem keys_nodeList (rows : Keyed PollRow) (f : Nat → NodeRecord) (n : Nat) :
    n ∈ (nodeList rows f).keys ↔ n ∈ pollNodes rows := by
  rw [← Keyed.get_isSome_iff, nodeList_get]
  split <;> simp [*]

theorem nodeList_wf (rows : Keyed PollRow) (f : Nat → NodeRecord) : Keyed.wf (nodeList rows f) := by
  unfold nodeList
  have key : ∀ (l : List Nat) (t : Keyed NodeRecord), Keyed.wf t → Keyed.wf (l.foldl (fun t n => t.put n (f n)) t) := by
    intro l
    induction l with
    | nil => exact fun t h => h
    | cons n l ih => exact fun t h => ih _ (Keyed.wf_put h n (f n))
  exact key _ [] List.Pairwise.nil

theorem takeCommit_readings_keys (c : Tables) (s : State) : (takeCommit c s).si.readings.keys = c.probe.keys :=
  Keyed.keys_mapRows c.probe fun k _ => (if rowChanged s.tb.active.probe c.probe k then none else s.si.readings.get k).getD {}

theorem Follows.commit {s : State} {c : Tables} (hc : c.installable) : Follows (takeCommit c s) where
  tables := hc
  nodesWf := nodeList_wf _ _
  nodes := keys_nodeList _ _
  readings := takeCommit_readings_keys c s
  pairs := Keyed.keys_mapRows _ _
  zones := Keyed.keys_mapRows _ _

theorem Follows.started {s : State} (h : s.tb.active.installable) (m : Mode) : Follows (started m s) where
  tables := h
  nodesWf := nodeList_wf _ _
  nodes := keys_nodeList _ _
  readings := Keyed.keys_mapRows s.tb.active.probe fun _ _ => ({} : Reading)
  pairs := Keyed.keys_mapRows s.tb.active.pair fun _ _ => PairRecord.new
  zones := Keyed.keys_mapRows _ _

/-- Every change keeps the records in line with the tables. -/
theorem Follows.change {s t : State} (k : RecordChange Tables.installable s t) (h : Follows s) : Follows t :=
  k.law Follows.quiet (fun _ hx h => ⟨h.tables, h.nodesWf, h.nodes, hx.trans h.readings, h.pairs, h.zones⟩) Follows.pairChange
    (fun hc _ => .commit hc) h

theorem Follows.changes {s t : State} (k : RecordChanges Tables.installable s t) (h : Follows s) : Follows t :=
  changes_law (P := Follows) (fun k h => h.change k) k h

theorem tablesSound_changes {s t : State} {c : Instr} (h : TablesSound s) (he : exec c s = .next t) :
    RecordsAfter Tables.installable s t := by
  obtain ⟨hactive, hstaged, _, hpending⟩ := h
  exact exec_records hpending (fun hcheck => ⟨candidate_sound hactive.1 hstaged, hcheck⟩) he

/-- A law of the records that the entry to START and the end of START establish and every change keeps holds after every step. -/
theorem step_records {P : State → Prop} (hcongr : ∀ {s} rest, P s → P { s with pending := rest })
    (hexec : ∀ {c s t}, TablesSound s → P s → exec c s = .next t → P t) {s t : State} (hs : TablesSound s) (h : P s)
    (hstep : step s = .next t) : P t := by
  rcases step_cases hstep with rfl | ⟨c, rest, _, he⟩
  · exact h
  · exact hexec (s := { s with pending := rest }) hs (hcongr rest h) he

/-- Settles O10: the end of START builds a record for each row, and each change keeps the records' indices or, a commit, renews them. -/
theorem recordsFollowTheTables : Obligations.RecordsFollowTheTables := by
  intro s t hs h hstep
  refine step_records (P := RecordsFollowTables) (fun _ h => h) (fun {c s t} hs h he hmode => ?_) hs h hstep
  have done : Follows t → _ := fun k => (follows_iff k.tables hmode).1 k hmode
  cases tablesSound_changes hs he with
  | entered => exact absurd rfl hmode
  | built m _ _ k => exact done (Follows.changes k (.started hs.1 m))
  | changed _ hiff k =>
    have hmode' : s.mc.mode ≠ .start := fun e => hmode (hiff.2 e)
    exact done (Follows.changes k ((follows_iff hs.1 hmode').2 h))

/-! ### Pair Status records (R85, R87, R99) -/

theorem riskStep_runs {z : ZoneRow} (hrise : z.riseCount ≤ 15) (hfall : z.fallCount ≤ 15) (before : RiskState) (riseRun fallRun : Nat)
    (m : Int) (mp : Option Int) :
    (riskStep z before riseRun fallRun m mp).2.1 ≤ 15 ∧ (riskStep z before riseRun fallRun m mp).2.2 ≤ 15 := by
  unfold riskStep
  cases before with
  | unknown reason => exact ⟨Nat.zero_le _, Nat.zero_le _⟩
  | judged l =>
    dsimp only
    split_ifs <;> dsimp only <;> omega

theorem pushMargin_length {history : List Int} (h : history.length ≤ 8) (m : Int) : (pushMargin history m).length ≤ 8 := by
  unfold pushMargin
  split
  · rename_i hlt
    rw [List.length_append]
    exact hlt
  · simp only [List.length_append, List.length_tail, List.length_cons, List.length_nil]
    omega

theorem pairSound_new : pairSound PairRecord.new := by decide

theorem pairSound_toUnknown {r : PairRecord} (reason : Reason) : pairSound (r.toUnknown reason) :=
  ⟨fun _ => ⟨rfl, rfl, rfl⟩, fun h => absurd rfl h, Nat.zero_le _, Nat.zero_le _, Nat.zero_le _⟩

/-- A record whose state is UNKNOWN keeps its laws when its history and its runs are cleared. -/
theorem pairSound_of_unknown {r : PairRecord} (hstate : r.state.level? = none) (hhistory : r.history = [])
    (hrise : r.riseRun = 0) (hfall : r.fallRun = 0) : pairSound r :=
  ⟨fun _ => ⟨hhistory, hrise, hfall⟩, fun h => absurd hstate h, by rw [hhistory]; exact Nat.zero_le _, by omega, by omega⟩

theorem pairSound_evaluated {s : State} {row : PairRow} {r : PairRecord} (h : pairSound r)
    (hrise : (s.zoneRow row.zone).riseCount ≤ 15) (hfall : (s.zoneRow row.zone).fallCount ≤ 15) : pairSound (evaluated s row r) := by
  unfold evaluated
  split
  · exact pairSound_of_unknown rfl rfl rfl rfl
  · split
    · exact pairSound_of_unknown rfl rfl rfl rfl
    · dsimp only
      split
      · exact pairSound_of_unknown rfl rfl rfl rfl
      · rename_i td m mp dewLow _
        obtain ⟨hr, hf⟩ := riskStep_runs hrise hfall r.state r.riseRun r.fallRun m mp
        exact ⟨fun hnone => (by cases hnone), fun _ => rfl, pushMargin_length h.2.2.1 m, hr, hf⟩

/-- The zone row a pair is judged by is well formed, or the row of defaults. -/
theorem zoneRow_counts {s : State} (h : s.tb.active.installable) (zone : Nat) :
    (s.zoneRow zone).riseCount ≤ 15 ∧ (s.zoneRow zone).fallCount ≤ 15 := by
  unfold State.zoneRow
  cases hz : s.tb.active.zone.get zone with
  | none => decide
  | some z =>
    have hwell := (h.1.2.2.2.1.2 (zone, z) (Keyed.mem_of_get hz)).2
    obtain ⟨_, _, _, _, _, hrise, _, hfall, _, _⟩ := ZoneRow.wellFormed_iff.1 hwell
    exact ⟨hrise, hfall⟩

theorem pairsSound_change {s t : State} (k : RecordChange Tables.installable s t)
    (h : s.tb.active.installable ∧ PairsSound s) : t.tb.active.installable ∧ PairsSound t := by
  refine k.law (P := fun s => s.tb.active.installable ∧ PairsSound s) (fun {s t} k h => ?_) (fun _ _ h => h) (fun {s t} k h => ?_)
    (fun {s c} hc h => ⟨hc, fun e he => ?_⟩) h
  · cases k with
    | same k => rw [k.active, PairsSound, k.pe]; exact h
    | _ => exact h
  · obtain ⟨hinst, hsound⟩ := h
    obtain ⟨e, he, r, r', hr, rfl, hr'⟩ := pairChange_exists_write k
    obtain ⟨htb, _, _, hpe⟩ := zoneNotice_frame e.2.zone (s.setPe { s.pe with pairs := s.pe.pairs.put e.1 r' })
    unfold writePair PairsSound
    rw [htb, hpe]
    refine ⟨hinst, fun x hx => ?_⟩
    rcases Keyed.mem_put hx with rfl | hx
    · rcases hr' with rfl | ⟨reason, rfl⟩
      · obtain ⟨hrise, hfall⟩ := zoneRow_counts hinst e.2.zone
        exact pairSound_evaluated (hsound _ (Keyed.mem_of_get hr)) hrise hfall
      · exact pairSound_toUnknown reason
    · exact hsound x hx
  · have hpairs : (takeCommit c s).pe.pairs = c.pair.mapRows fun p row =>
        if pairChanged s.tb.active c p row then PairRecord.new else (s.pe.pairs.get p).getD PairRecord.new := rfl
    rw [hpairs] at he
    obtain ⟨x, _, rfl⟩ := List.mem_map.1 he
    dsimp only
    split
    · exact pairSound_new
    · cases hr : s.pe.pairs.get x.1 with
      | none => exact pairSound_new
      | some r => exact h.2 _ (Keyed.mem_of_get hr)

/-- Settles O12: an evaluation keeps the laws by its branches (`pairSound_evaluated`), a drop clears what they bound. -/
theorem pairsStaySound : Obligations.PairsStaySound := by
  intro s t hs h hstep
  refine step_records (P := PairsSound) (fun _ h => h) (fun {c s t} hs h he => ?_) hs h hstep
  have changes : ∀ {u}, RecordChanges Tables.installable u t → u.tb.active.installable ∧ PairsSound u → PairsSound t :=
    fun k hu => (changes_law (P := fun s => s.tb.active.installable ∧ PairsSound s) (fun k h => pairsSound_change k h) k hu).2
  cases tablesSound_changes hs he with
  | entered => exact fun e he => by cases he
  | built m _ _ k =>
    refine changes k ⟨hs.1, fun e he => ?_⟩
    have hpairs : (started m s).pe.pairs = s.tb.active.pair.mapRows fun _ _ => PairRecord.new := rfl
    rw [hpairs] at he
    obtain ⟨x, _, rfl⟩ := List.mem_map.1 he
    exact pairSound_new
  | changed _ _ k => exact changes k ⟨hs.1, h⟩

/-! ### The Alert Queue (R113, R116) -/

/-- An alert leaves the queue's zones, or adds its zone behind them. -/
theorem alertIfMoved_zones (cycle : Half) (zone : Nat) (before after : ZoneRecord) (alerts : List Alert) :
    (alertIfMoved cycle zone before after alerts).map (fun a => a.zone) = alerts.map (fun a => a.zone) ∨
    (zone ∉ alerts.map (fun a => a.zone) ∧
      (alertIfMoved cycle zone before after alerts).map (fun a => a.zone) = alerts.map (fun a => a.zone) ++ [zone]) := by
  unfold alertIfMoved
  split
  · exact .inl rfl
  · unfold recordAlert
    split
    · refine .inl ?_
      rw [List.map_map]
      refine List.map_congr_left fun a _ => ?_
      dsimp only [Function.comp]
      split <;> rfl
    · rename_i hany
      refine .inr ⟨fun hmem => hany ?_, by rw [List.map_append]; rfl⟩
      obtain ⟨a, ha, hzone⟩ := List.mem_map.1 hmem
      exact List.any_eq_true.2 ⟨a, ha, by simpa using hzone⟩

/-- The zones of a queue are distinct and have rows. -/
def ZonesQueued (rows : Keyed ZoneRow) (alerts : List Alert) : Prop :=
  (alerts.map fun a => a.zone).Nodup ∧ ∀ z ∈ alerts.map (fun a => a.zone), (rows.get z).isSome = true

theorem alertsSound_iff (s : State) : AlertsSound s ↔ ZonesQueued s.tb.active.zone s.zm.alerts := by
  simp [AlertsSound, ZonesQueued]

theorem ZonesQueued.alert {rows : Keyed ZoneRow} {alerts : List Alert} (h : ZonesQueued rows alerts) {zone : Nat}
    (hzone : (rows.get zone).isSome = true) (cycle : Half) (before after : ZoneRecord) :
    ZonesQueued rows (alertIfMoved cycle zone before after alerts) := by
  obtain ⟨hnodup, hrows⟩ := h
  unfold ZonesQueued
  rcases alertIfMoved_zones cycle zone before after alerts with e | ⟨hnew, e⟩ <;> rw [e]
  · exact ⟨hnodup, hrows⟩
  · refine ⟨List.nodup_append.2 ⟨hnodup, List.nodup_singleton zone, fun a ha b hb => ?_⟩, fun z hz => ?_⟩
    · rw [List.mem_singleton.1 hb]
      exact fun e => hnew (e ▸ ha)
    · rcases List.mem_append.1 hz with hz | hz
      · exact hrows z hz
      · rw [List.mem_singleton.1 hz]; exact hzone

theorem ZonesQueued.sublist {rows : Keyed ZoneRow} {alerts alerts' : List Alert} (h : ZonesQueued rows alerts)
    (hsub : alerts'.Sublist alerts) : ZonesQueued rows alerts' :=
  ⟨h.1.sublist (hsub.map _), fun z hz => h.2 z ((hsub.map _).subset hz)⟩

theorem ZonesQueued.commit {c : Tables} {s : State} (h : (s.zm.alerts.map fun a => a.zone).Nodup) :
    ZonesQueued c.zone (takeCommit c s).zm.alerts := by
  have hfold : (takeCommit c s).zm.alerts = c.zone.foldl (fun acc e => match s.zm.zones.get e.1 with
      | some before => alertIfMoved s.ps.cycle e.1 before ((takeCommit c s).zoneRecord e.1 e.2) acc
      | none => acc) (s.zm.alerts.filter fun a => (c.zone.get a.zone).isSome) := rfl
  rw [hfold]
  have hkept : ZonesQueued c.zone (s.zm.alerts.filter fun a => (c.zone.get a.zone).isSome) := by
    refine ⟨h.sublist (List.filter_sublist.map _), fun z hz => ?_⟩
    obtain ⟨a, ha, rfl⟩ := List.mem_map.1 hz
    exact (List.mem_filter.1 ha).2
  have key : ∀ (rows : Keyed ZoneRow), (∀ e ∈ rows, e ∈ c.zone) → ∀ acc, ZonesQueued c.zone acc →
      ZonesQueued c.zone (rows.foldl (fun acc e => match s.zm.zones.get e.1 with
        | some before => alertIfMoved s.ps.cycle e.1 before ((takeCommit c s).zoneRecord e.1 e.2) acc
        | none => acc) acc) := by
    intro rows
    induction rows with
    | nil => exact fun _ _ h => h
    | cons e rows ih =>
      intro hrows acc hacc
      refine ih (fun x hx => hrows x (List.mem_cons_of_mem _ hx)) _ ?_
      dsimp only
      cases s.zm.zones.get e.1 with
      | none => exact hacc
      | some before =>
        refine hacc.alert (Keyed.get_isSome_iff.2 (List.mem_map.2 ⟨e, hrows e (by simp), rfl⟩)) _ _ _
  exact key c.zone (fun _ h => h) _ hkept

theorem zonesQueued_change {ok : Tables → Prop} {s t : State} (k : RecordChange ok s t)
    (h : ZonesQueued s.tb.active.zone s.zm.alerts) : ZonesQueued t.tb.active.zone t.zm.alerts := by
  refine k.law (P := fun s => ZonesQueued s.tb.active.zone s.zm.alerts) (fun {s t} k h => ?_) (fun _ _ h => h) (fun {s t} k h => ?_)
    (fun {s c} _ h => ZonesQueued.commit h.1) h
  · cases k with
    | same k => rw [k.active, k.alerts]; exact h
    | alertsTaken n => exact h.sublist (List.drop_sublist n _)
    | _ => exact h
  · obtain ⟨e, he, r, r', hr, rfl, _⟩ := pairChange_exists_write k
    unfold writePair
    rcases zoneNotice_cases e.2.zone (s.setPe { s.pe with pairs := s.pe.pairs.put e.1 r' }) with heq | ⟨row, before, hrow, _, heq⟩ <;>
      rw [heq]
    · exact h
    · exact h.alert (by rw [show s.tb.active.zone.get e.2.zone = some row from hrow]; rfl) _ _ _

/-- Settles O15: an alert adds its own zone where it has no entry, and a commit keeps the entries of zones with rows. -/
theorem alertsStaySound : Obligations.AlertsStaySound := by
  intro s t h hstep
  rcases step_cases hstep with rfl | ⟨c, rest, _, he⟩
  · exact h
  · have hrecords := exec_records (ok := fun _ => True) (s := { s with pending := rest }) (fun _ _ => trivial) (fun _ => trivial) he
    have changes : ∀ {u}, RecordChanges (fun _ => True) u t → ZonesQueued u.tb.active.zone u.zm.alerts → AlertsSound t :=
      fun k hu => (alertsSound_iff t).2
        (changes_law (P := fun s => ZonesQueued s.tb.active.zone s.zm.alerts) (fun k h => zonesQueued_change k h) k hu)
    have hqueued := (alertsSound_iff s).1 h
    cases hrecords with
    | entered => exact ⟨List.nodup_nil, fun a ha => by cases ha⟩
    | built _ _ _ k => exact changes k hqueued
    | changed _ _ k => exact changes k hqueued

/-! ### Zone Status records (R110) -/

theorem Keyed.eq_of_get {α : Type} : ∀ {t u : Keyed α}, Keyed.wf t → t.keys = u.keys → (∀ k, t.get k = u.get k) → t = u
  | [], [], _, _, _ => rfl
  | [], _ :: _, _, hkeys, _ => by cases hkeys
  | _ :: _, [], _, hkeys, _ => by cases hkeys
  | (i, a) :: t, (j, b) :: u, hw, hkeys, hget => by
    obtain ⟨hfirst, hw⟩ := List.pairwise_cons.1 hw
    have hij : i = j := (List.cons.inj hkeys).1
    have hrest : Keyed.keys t = Keyed.keys u := (List.cons.inj hkeys).2
    subst hij
    have hab : some a = some b := by simpa [Keyed.get_cons] using hget i
    have hnone : ∀ v : Keyed α, i ∉ v.keys → v.get i = none := fun v hv =>
      Option.not_isSome_iff_eq_none.1 fun h => hv (Keyed.get_isSome_iff.1 h)
    have hi : i ∉ Keyed.keys t := fun h => by
      obtain ⟨e, he, heq⟩ := List.mem_map.1 h
      exact absurd heq (Nat.ne_of_gt (hfirst e he))
    cases hab
    refine congrArg _ (Keyed.eq_of_get hw hrest fun k => ?_)
    have hk := hget k
    rw [Keyed.get_cons, Keyed.get_cons] at hk
    by_cases hik : i = k
    · rw [← hik, hnone t hi, hnone u (hrest ▸ hi)]
    · rwa [if_neg hik, if_neg hik] at hk

/-- A pair's record is no matter to the zones it does not belong to (R108). -/
theorem members_put_other {rows : Keyed PairRow} (hw : Keyed.wf rows) {e : Nat × PairRow} (he : e ∈ rows) {zone : Nat}
    (hzone : e.2.zone ≠ zone) (pairs : Keyed PairRecord) (r : PairRecord) :
    members rows (pairs.put e.1 r) zone = members rows pairs zone := by
  unfold members
  refine List.filterMap_congr fun x hx => ?_
  by_cases hx' : x.2.zone = zone
  · have hne : e.1 ≠ x.1 := fun heq => by
      have h1 := Keyed.get_of_mem hw he
      have h2 := Keyed.get_of_mem hw hx
      rw [heq, h2] at h1
      exact hzone (Option.some.inj h1 ▸ hx')
    rw [if_pos hx', if_pos hx', Keyed.get_put, if_neg hne]
  · rw [if_neg hx', if_neg hx']

/-- The tables are installable and every Zone Status record is what a recompute gives. -/
def ZonesRecomputed (s : State) : Prop :=
  s.tb.active.installable ∧ s.zm.zones = s.tb.active.zone.mapRows s.zoneRecord

theorem ZonesRecomputed.pairChange {s t : State} (k : PairChange s t) (h : ZonesRecomputed s) : ZonesRecomputed t := by
  obtain ⟨hinst, hzones⟩ := h
  obtain ⟨e, he, r, r', _, rfl, _⟩ := pairChange_exists_write k
  have hpairWf : Keyed.wf s.tb.active.pair := hinst.1.2.2.1.1
  have hzoneWf : Keyed.wf s.tb.active.zone := hinst.1.2.2.2.1.1
  obtain ⟨zrow, hzrow⟩ := hinst.zone_of_pair (Keyed.get_of_mem hpairWf he)
  have hget : ∀ z, s.zm.zones.get z = (s.tb.active.zone.get z).map (s.zoneRecord z) := fun z => by
    rw [hzones]; exact Keyed.get_mapRows _ _ z
  obtain ⟨u, hu⟩ : ∃ u, u = s.setPe { s.pe with pairs := s.pe.pairs.put e.1 r' } := ⟨_, rfl⟩
  have hwrite : writePair e.1 e.2 r' s = u.setZm { s.zm with
      zones := s.zm.zones.put e.2.zone (u.zoneRecord e.2.zone zrow)
      alerts := alertIfMoved s.ps.cycle e.2.zone (s.zoneRecord e.2.zone zrow) (u.zoneRecord e.2.zone zrow) s.zm.alerts } := by
    subst hu
    refine zoneNotice_eq hzrow ?_
    exact (hget e.2.zone).trans (by rw [hzrow]; rfl)
  have hother : ∀ z row, z ≠ e.2.zone → u.zoneRecord z row = s.zoneRecord z row := fun z row hz => by
    subst hu
    exact congrArg (recompute row.blindLimit) (members_put_other hpairWf he (Ne.symm hz) s.pe.pairs r')
  rw [hwrite]
  have htb : u.tb = s.tb := by subst hu; rfl
  refine ⟨by rw [State.setZm_tb, htb]; exact hinst, ?_⟩
  have hgoal : s.zm.zones.put e.2.zone (u.zoneRecord e.2.zone zrow) = s.tb.active.zone.mapRows u.zoneRecord := by
    have hwf : Keyed.wf s.zm.zones := by rw [hzones]; exact Keyed.wf_mapRows hzoneWf _
    have hmem : e.2.zone ∈ s.zm.zones.keys := by
      rw [hzones, Keyed.keys_mapRows]
      exact Keyed.get_isSome_iff.1 (by rw [hzrow]; rfl)
    refine Keyed.eq_of_get (Keyed.wf_put hwf _ _) ?_ fun z => ?_
    · rw [Keyed.keys_put_of_mem hwf hmem, hzones, Keyed.keys_mapRows, Keyed.keys_mapRows]
    · rw [Keyed.get_put, Keyed.get_mapRows, hget]
      by_cases hz : e.2.zone = z
      · rw [if_pos hz, ← hz, hzrow]; rfl
      · rw [if_neg hz]
        exact congrArg (fun f => (s.tb.active.zone.get z).map f) (funext fun row => (hother z row (Ne.symm hz)).symm)
  subst hu
  exact hgoal

theorem ZonesRecomputed.change {s t : State} (k : RecordChange Tables.installable s t) (h : ZonesRecomputed s) :
    ZonesRecomputed t := by
  refine k.law (P := ZonesRecomputed) (fun {s t} k h => ?_) (fun _ _ h => h) ZonesRecomputed.pairChange
    (fun hc _ => ⟨hc, takeCommit_zones _ _⟩) h
  cases k with
  | same k =>
    obtain ⟨hactive, _, _, hpe, hzones, _⟩ := k
    have hrecord : t.zoneRecord = s.zoneRecord := by
      funext z row
      simp only [State.zoneRecord, hactive, hpe]
    exact ⟨hactive ▸ h.1, by rw [hzones, hactive, hrecord]; exact h.2⟩
  | _ => exact h

/-- Settles O14: a change of a pair is followed by the recompute of its own zone, and no other zone has it as a member. -/
theorem zonesStayCurrent : Obligations.ZonesStayCurrent := by
  intro s t hs h hstep
  refine step_records (P := ZonesCurrent) (fun _ h => h) (fun {c s t} hs h he hmode => ?_) hs h hstep
  have changes : ∀ {u}, RecordChanges Tables.installable u t → ZonesRecomputed u → t.zm.zones = t.tb.active.zone.mapRows t.zoneRecord :=
    fun k hu => (changes_law (P := ZonesRecomputed) (fun k h => h.change k) k hu).2
  cases tablesSound_changes hs he with
  | entered => exact absurd rfl hmode
  | built m _ _ k => exact changes k ⟨hs.1, rfl⟩
  | changed _ hiff k => exact changes k ⟨hs.1, h fun e => hmode (hiff.2 e)⟩

end Sys2Proof.Machine

/-! SUPPORT. The laws of the readings and of the Force List (R39, R40, R58) over every change: the statement O11. -/

namespace Sys2Proof.Machine

/-! ### The laws of a reading over what writes it -/

section
variable {row : ProbeRow} {r : Reading}

theorem Quality.ne_none_of_usable {q : Quality} (h : q.usable = true) : q ≠ .none := by
  rintro rfl
  cases h

/-- A reading that is not NONE keeps its laws when it goes STALE or FAULT with fresh 0 (R46, R52, R54). -/
theorem readingSound_spent (h : readingSound row r) (hq : r.quality ≠ .none) {q : Quality} (hq' : q ≠ .none)
    (hunusable : q.usable = false) : readingSound row { r with quality := q, fresh := 0 } := by
  obtain ⟨hvalue, hstamp, hrange, _, _⟩ := h
  refine ⟨⟨fun e => absurd (hvalue.1 e) hq, fun e => absurd e hq'⟩, ⟨fun e => absurd (hstamp.1 e) hq, fun e => absurd e hq'⟩,
    hrange, ⟨fun e => absurd e (lt_irrefl 0), fun e => ?_⟩, Nat.zero_le _⟩
  rw [hunusable] at e
  cases e

theorem readingSound_toFault (h : readingSound row r) : readingSound row r.toFault := by
  unfold Reading.toFault
  split
  · exact h
  · exact readingSound_spent h ‹_› (by decide) rfl

theorem readingSound_atStop (h : readingSound row r) : readingSound row r.atStop := by
  unfold Reading.atStop
  split
  · exact readingSound_spent h (Quality.ne_none_of_usable ‹_›) (by decide) rfl
  · exact h

theorem readingSound_countDown (h : readingSound row r) : readingSound row r.countDown := by
  unfold Reading.countDown
  have hall := h
  obtain ⟨hvalue, hstamp, hrange, hfresh, hmax⟩ := hall
  split
  · exact h
  · rename_i h0
    have husable := hfresh.1 (Nat.pos_of_ne_zero h0)
    split
    · exact readingSound_spent h (Quality.ne_none_of_usable husable) (by decide) rfl
    · refine ⟨hvalue, hstamp, hrange, ⟨fun _ => husable, fun _ => ?_⟩, (Nat.sub_le _ _).trans hmax⟩
      dsimp only
      omega

theorem readingSound_default : readingSound row {} :=
  ⟨⟨fun _ => rfl, fun _ => rfl⟩, ⟨fun _ => rfl, fun _ => rfl⟩, fun _ h => (by cases h),
    ⟨fun h => absurd h (lt_irrefl 0), fun h => (by cases h)⟩, Nat.zero_le _⟩

/-- A reading with a value in range, a stamp, a usable quality and a full fresh count. -/
theorem readingSound_fresh {v : Int} {c : Half} (hv : row.kind.inRange v = true) (hfresh : 1 ≤ row.freshCycles)
    (hq : r.quality.usable = true) (hvalue : r.value = some v) (hstamp : r.stamp = some c) (hcount : r.fresh = row.freshCycles) :
    readingSound row r := by
  have hne := Quality.ne_none_of_usable hq
  refine ⟨⟨fun e => (by rw [hvalue] at e; cases e), fun e => absurd e hne⟩,
    ⟨fun e => (by rw [hstamp] at e; cases e), fun e => absurd e hne⟩, fun x hx => ?_, ⟨fun _ => hq, fun _ => by omega⟩, by omega⟩
  rw [hvalue] at hx
  cases hx
  exact hv

theorem calibratedQuality_usable (row : ProbeRow) (raw : Nat) : (calibratedQuality row raw).usable = true := by
  unfold calibratedQuality
  split <;> rfl

theorem calibratedValue_inRange (row : ProbeRow) (raw : Nat) : row.kind.inRange (calibratedValue row raw) = true := by
  have hspan := row.kind.lowEnd_le_highEnd
  rw [ProbeKind.inRange_iff, calibratedValue, clampTo]
  split_ifs <;> omega

theorem readingSound_okReading (hfresh : 1 ≤ row.freshCycles) (cycle : Half) (n : Notice) (raw : Nat) :
    readingSound row (okReading cycle n row raw) :=
  readingSound_fresh (calibratedValue_inRange row raw) hfresh (calibratedQuality_usable row raw) rfl rfl rfl

theorem readingSound_pinReading (hfresh : 1 ≤ row.freshCycles) (cycle : Half) {v : Int} (hv : row.kind.inRange v = true) :
    readingSound row (pinReading cycle row v) :=
  readingSound_fresh hv hfresh rfl rfl rfl rfl

/-- A SUBSTITUTE on a usable reading keeps its laws (R62). -/
theorem readingSound_substitute (h : readingSound row r) (hu : r.quality.usable = true) {v : Int} (hv : row.kind.inRange v = true) :
    readingSound row { r with quality := .forced, value := some v } := by
  obtain ⟨_, hstamp, _, hfresh, hmax⟩ := h
  refine ⟨⟨fun e => (by cases e), fun e => (by cases e)⟩,
    ⟨fun e => absurd (hstamp.1 e) (Quality.ne_none_of_usable hu), fun e => (by cases e)⟩, fun x hx => ?_,
    ⟨fun _ => rfl, fun _ => hfresh.2 hu⟩, hmax⟩
  cases hx
  exact hv

end

/-! ### The laws over an intake event -/

/-- Every entry of a collection of readings has a row and keeps its laws under it. -/
def ReadingsSound (probe : Keyed ProbeRow) (readings : Keyed Reading) : Prop :=
  ∀ e ∈ readings, ∃ row, probe.get e.1 = some row ∧ readingSound row e.2

/-- Every entry of a Force List is of a channel with a row, within the range of its kind. -/
def ForcesInRange (probe : Keyed ProbeRow) (forces : Keyed Force) : Prop :=
  ∀ e ∈ forces, ∃ row, probe.get e.1 = some row ∧ row.kind.inRange e.2.value = true

theorem intakeSound_iff (s : State) : IntakeSound s ↔ ReadingsSound s.tb.active.probe s.si.readings ∧
    Keyed.wf s.si.forces ∧ s.si.forces.length ≤ Config.forceEntries ∧ ForcesInRange s.tb.active.probe s.si.forces := by
  simp [IntakeSound, ReadingsSound, ForcesInRange]

/-- An intake event's work: the readings keep their laws, and those whose channels step 1 last wrote an OK sample to are usable. -/
def WorkSound (probe : Keyed ProbeRow) (w : IntakeWork) : Prop :=
  ReadingsSound probe w.readings ∧ ∀ e ∈ w.readings, e.1 ∈ w.lastOk → e.2.quality.usable = true

theorem Keyed.mem_modify {α : Type} {t : Keyed α} {k : Nat} {f : α → α} {e : Nat × α} (h : e ∈ t.modify k f) :
    (e.1 ≠ k ∧ e ∈ t) ∨ ∃ r, (k, r) ∈ t ∧ e = (k, f r) := by
  obtain ⟨x, hx, rfl⟩ := List.mem_map.1 h
  by_cases hk : x.1 = k
  · rw [if_pos hk]
    exact .inr ⟨x.2, hk ▸ hx, by rw [hk]⟩
  · rw [if_neg hk]
    exact .inl ⟨hk, hx⟩

section
variable {probe : Keyed ProbeRow} {w : IntakeWork} {c : Nat} {row : ProbeRow}

/-- A write to a channel's reading that keeps its laws. -/
theorem ReadingsSound.modify {readings : Keyed Reading} (h : ReadingsSound probe readings) (hrow : probe.get c = some row)
    {f : Reading → Reading} (hf : ∀ r, (c, r) ∈ readings → readingSound row r → readingSound row (f r)) :
    ReadingsSound probe (readings.modify c f) := by
  intro e he
  rcases Keyed.mem_modify he with ⟨_, he⟩ | ⟨r, hr, rfl⟩
  · exact h e he
  · obtain ⟨row', hrow', hsound⟩ := h _ hr
    rw [hrow] at hrow'
    cases hrow'
    exact ⟨row, hrow, hf r hr hsound⟩

theorem WorkSound.sample (hw : Keyed.wf probe) (hfresh : ∀ c row, probe.get c = some row → 1 ≤ row.freshCycles) (h : WorkSound probe w)
    (cycle : Half) (n : Notice) (x : Sample) : WorkSound probe (applySample cycle probe n w x) := by
  obtain ⟨hreadings, hlast⟩ := h
  unfold applySample
  cases hc : channelOf probe n.node x.slot with
  | none => exact ⟨hreadings, hlast⟩
  | some e =>
    obtain ⟨c, row⟩ := e
    obtain ⟨hrow, _, _⟩ := channelOf_spec hw hc
    cases x.status with
    | ok =>
      refine ⟨hreadings.modify hrow fun r _ _ => readingSound_okReading (hfresh c row hrow) cycle n x.raw, fun e he hmem => ?_⟩
      replace he : e ∈ w.readings.modify c fun _ => okReading cycle n row x.raw := he
      rcases Keyed.mem_modify he with ⟨hne, he⟩ | ⟨r, _, rfl⟩
      · exact hlast e he ((List.mem_cons.1 hmem).resolve_left hne)
      · exact calibratedQuality_usable row x.raw
    | sensorFault =>
      refine ⟨hreadings.modify hrow fun r _ hr => readingSound_toFault hr, fun e he hmem => ?_⟩
      obtain ⟨hmem, hne⟩ := List.mem_filter.1 hmem
      have hne : e.1 ≠ c := by simpa using hne
      rcases Keyed.mem_modify he with ⟨_, he⟩ | ⟨r, _, rfl⟩
      · exact hlast e he hmem
      · exact absurd rfl hne
    | warming => exact ⟨hreadings, hlast⟩

theorem WorkSound.force (hrow : probe.get c = some row) (hfresh : 1 ≤ row.freshCycles) {forces : Keyed Force}
    (hforces : ForcesInRange probe forces) (h : WorkSound probe w) (cycle : Half) :
    WorkSound probe (applyForce cycle forces w (c, row)) := by
  have hall := h
  obtain ⟨hreadings, hlast⟩ := hall
  unfold applyForce
  dsimp only
  cases hf : forces.get c with
  | none => exact h
  | some f =>
    obtain ⟨row', hrow', hrange⟩ := hforces (c, f) (Keyed.mem_of_get hf)
    rw [hrow] at hrow'
    cases hrow'
    obtain ⟨value, kind⟩ := f
    cases kind with
    | pin =>
      refine ⟨hreadings.modify hrow fun _ _ _ => readingSound_pinReading hfresh cycle hrange, fun e he hmem => ?_⟩
      replace he : e ∈ w.readings.modify c fun _ => pinReading cycle row value := he
      rcases Keyed.mem_modify he with ⟨_, he⟩ | ⟨r, _, rfl⟩
      · exact hlast e he hmem
      · rfl
    | substitute =>
      dsimp only
      split
      · rename_i hok
        have hok : c ∈ w.lastOk := by simpa using hok
        refine ⟨hreadings.modify hrow fun r hr hsound => readingSound_substitute hsound (hlast _ hr hok) hrange,
          fun e he hmem => ?_⟩
        replace he : e ∈ w.readings.modify c fun r => { r with quality := .forced, value := some value } := he
        rcases Keyed.mem_modify he with ⟨_, he⟩ | ⟨r, _, rfl⟩
        · exact hlast e he hmem
        · rfl
      · exact h

end

theorem foldl_law {α β : Type} {P : β → Prop} {f : β → α → β} {l : List α} (hf : ∀ b, ∀ a ∈ l, P b → P (f b a)) {b : β} (h : P b) :
    P (l.foldl f b) := by
  induction l generalizing b with
  | nil => exact h
  | cons a l ih => exact ih (fun b a ha => hf b a (List.mem_cons_of_mem _ ha)) (hf b a (by simp) h)

theorem freshCycles_pos {c : Tables} (h : c.installable) {k : Nat} {row : ProbeRow} (hrow : c.probe.get k = some row) :
    1 ≤ row.freshCycles := by
  obtain ⟨_, _, _, _, _, _, _, hfresh, _⟩ := ProbeRow.wellFormed_iff.1 (h.1.2.1.2 (k, row) (Keyed.mem_of_get hrow)).2
  exact hfresh

/-- An intake event keeps the laws of the readings. -/
theorem intakeWork_sound {s : State} (hinst : s.tb.active.installable) (hreadings : ReadingsSound s.tb.active.probe s.si.readings)
    (hforces : ForcesInRange s.tb.active.probe s.si.forces) (n : Notice) :
    ReadingsSound s.tb.active.probe (intakeWork n s).readings := by
  have hw : Keyed.wf s.tb.active.probe := hinst.1.2.1.1
  have hempty : ∀ {readings}, ReadingsSound s.tb.active.probe readings →
      WorkSound s.tb.active.probe { readings := readings, written := [], lastOk := [] } := fun h => ⟨h, fun _ _ h => (by cases h)⟩
  have hreply : WorkSound s.tb.active.probe (applyReply s.ps.cycle s.tb.active.probe n s.si.readings) := by
    unfold applyReply
    cases n.taken with
    | newBlock samples => exact foldl_law (fun w x _ h => h.sample hw (fun _ _ => freshCycles_pos hinst) _ _ x) (hempty hreadings)
    | fault code =>
      refine hempty (foldl_law (P := ReadingsSound s.tb.active.probe) (fun readings e he h => ?_) hreadings)
      exact h.modify ((mem_channelsOf hw).1 he).1 fun _ _ => readingSound_toFault
    | _ => exact hempty hreadings
  refine (foldl_law (P := WorkSound s.tb.active.probe) (fun w e he h => ?_) hreply).1
  have hrow := ((mem_channelsOf hw).1 he).1
  exact h.force hrow (freshCycles_pos hinst hrow) hforces _

/-! ### The laws over every change -/

theorem ReadingsSound.map {probe : Keyed ProbeRow} {readings : Keyed Reading} (h : ReadingsSound probe readings) {f : Reading → Reading}
    (hf : ∀ {row r}, readingSound row r → readingSound row (f r)) : ReadingsSound probe (readings.mapRows fun _ r => f r) := by
  intro e he
  obtain ⟨x, hx, rfl⟩ := List.mem_map.1 he
  obtain ⟨row, hrow, hsound⟩ := h x hx
  exact ⟨row, hrow, hf hsound⟩

/-- The tables are installable and Sample Intake keeps its laws. -/
def IntakeLaws (s : State) : Prop := s.tb.active.installable ∧ IntakeSound s

theorem IntakeLaws.quiet {s t : State} (k : QuietChange s t) (h : IntakeLaws s) : IntakeLaws t := by
  obtain ⟨hinst, hsound⟩ := h
  obtain ⟨hreadings, hwf, hlen, hforces⟩ := (intakeSound_iff s).1 hsound
  cases k with
  | same k =>
    refine ⟨k.active ▸ hinst, ?_⟩
    rw [intakeSound_iff, k.active, k.si]
    exact ⟨hreadings, hwf, hlen, hforces⟩
  | skip => exact ⟨hinst, hsound⟩
  | alertsTaken => exact ⟨hinst, hsound⟩
  | forcesCut forces hsub =>
    exact ⟨hinst, (intakeSound_iff _).2 ⟨hreadings, hwf.sublist hsub, hsub.length_le.trans hlen, fun e he => hforces e (hsub.subset he)⟩⟩
  | forceSet k row f hrow hrange hroom =>
    refine ⟨hinst, (intakeSound_iff _).2 ⟨hreadings, Keyed.wf_put hwf k f, ?_, fun e he => ?_⟩⟩
    · cases hget : s.si.forces.get k with
      | none =>
        rw [hget] at hroom
        exact (Keyed.length_put_new hget f).trans_le (hroom.resolve_right (by simp))
      | some f' => exact (Keyed.length_put_old hwf hget f).trans_le hlen
    · rcases Keyed.mem_put he with rfl | he
      · exact ⟨row, hrow, hrange⟩
      · exact hforces e he

theorem IntakeLaws.readings {s t : State} (honly : ReadingsOnly s t) {readings : Keyed Reading}
    (hsi : t.si = { s.si with readings := readings })
    (hsound : s.tb.active.installable → IntakeSound s → ReadingsSound s.tb.active.probe readings) (h : IntakeLaws s) : IntakeLaws t := by
  have htb : t.tb = s.tb := honly.keeps.2.2.2.1
  obtain ⟨_, hwf, hlen, hforces⟩ := (intakeSound_iff s).1 h.2
  refine ⟨by rw [htb]; exact h.1, ?_⟩
  rw [intakeSound_iff, htb, hsi]
  exact ⟨hsound h.1 h.2, hwf, hlen, hforces⟩

theorem IntakeLaws.commit {s : State} {c : Tables} (hc : c.installable) (h : IntakeLaws s) : IntakeLaws (takeCommit c s) := by
  obtain ⟨_, hsound⟩ := h
  obtain ⟨hreadings, hwf, hlen, hforces⟩ := (intakeSound_iff s).1 hsound
  refine ⟨hc, ?_⟩
  rw [intakeSound_iff, takeCommit_si]
  refine ⟨fun e he => ?_, hwf.sublist List.filter_sublist, List.filter_sublist.length_le.trans hlen, fun e he => ?_⟩
  · obtain ⟨x, hx, rfl⟩ := List.mem_map.1 (show e ∈ c.probe.map fun e => (e.1,
      (if rowChanged s.tb.active.probe c.probe e.1 then none else s.si.readings.get e.1).getD ({} : Reading)) from he)
    have hrow : c.probe.get x.1 = some x.2 := Keyed.get_of_mem hc.1.2.1.1 hx
    refine ⟨x.2, hrow, ?_⟩
    dsimp only
    split
    · exact readingSound_default
    · rename_i hsame
      cases hr : s.si.readings.get x.1 with
      | none => exact readingSound_default
      | some r =>
        obtain ⟨row, hold, hr⟩ := hreadings _ (Keyed.mem_of_get hr)
        rw [rowChanged_iff, not_not, hrow] at hsame
        have heq : row = x.2 := Option.some.inj (hold.symm.trans hsame)
        exact heq ▸ hr
  · obtain ⟨he, hkept⟩ := List.mem_filter.1 he
    obtain ⟨a, b, ha, hb, hkind⟩ := forceKept_iff.1 hkept
    obtain ⟨row, hrow, hrange⟩ := hforces e he
    rw [ha] at hrow
    cases hrow
    exact ⟨b, hb, hkind ▸ hrange⟩

theorem IntakeLaws.change {s t : State} (k : RecordChange Tables.installable s t) (h : IntakeLaws s) : IntakeLaws t := by
  have hlaws : IntakeSound s → ReadingsSound s.tb.active.probe s.si.readings ∧ ForcesInRange s.tb.active.probe s.si.forces :=
    fun h => ⟨((intakeSound_iff s).1 h).1, ((intakeSound_iff s).1 h).2.2.2⟩
  cases k with
  | quiet k => exact .quiet k h
  | intake n =>
    exact h.readings (intakeEvent_only n s) (intakeEvent_si n s) fun hinst hs => intakeWork_sound hinst (hlaws hs).1 (hlaws hs).2 n
  | countDown => exact h.readings (countDown_only s) (countDown_si s) fun _ hs => (hlaws hs).1.map readingSound_countDown
  | stopWork => exact h.readings (stopWork_only s) (stopWork_si s) fun _ hs => (hlaws hs).1.map readingSound_atStop
  | commit c hc => exact h.commit hc

/-- Settles O11: each write keeps a reading's laws under its channel's row, and a commit keeps a force entry with its kind. -/
theorem intakeStaysSound : Obligations.IntakeStaysSound := by
  intro s t hs h hstep
  refine step_records (P := IntakeSound) (fun _ h => h) (fun {c s t} hs h he => ?_) hs h hstep
  have changes : ∀ {u}, RecordChanges Tables.installable u t → IntakeLaws u → IntakeSound t :=
    fun k hu => (changes_law (P := IntakeLaws) (fun k h => h.change k) k hu).2
  cases tablesSound_changes hs he with
  | entered =>
    exact (intakeSound_iff _).2 ⟨fun e he => (by cases he), List.Pairwise.nil, Nat.zero_le _, fun e he => (by cases he)⟩
  | built m _ _ k =>
    refine changes k ⟨hs.1, (intakeSound_iff _).2 ⟨fun e he => ?_, List.Pairwise.nil, Nat.zero_le _, fun e he => (by cases he)⟩⟩
    have hreadings : (started m s).si.readings = s.tb.active.probe.mapRows fun _ _ => {} := rfl
    rw [hreadings] at he
    obtain ⟨x, hx, rfl⟩ := List.mem_map.1 he
    exact ⟨x.2, Keyed.get_of_mem hs.1.1.2.1.1 hx, readingSound_default⟩
  | changed _ _ k => exact changes k ⟨hs.1, h⟩

end Sys2Proof.Machine

/-! SUPPORT. The pairs that are judged and the readings they are judged by (R86): the statement O13. -/

namespace Sys2Proof.Machine

/-! ### Drops and evaluations -/

/-- The first of a pair's inputs in the lost list (R102). -/
def firstLost (lost : List (Nat × Quality)) (row : PairRow) : Option Quality := row.channels.findSome? fun c => lost.lookup c

theorem firstLost_eq_none {lost : List (Nat × Quality)} {row : PairRow} :
    firstLost lost row = none ↔ ∀ c ∈ row.channels, lost.lookup c = none := List.findSome?_eq_none_iff

section
variable {lost : List (Nat × Quality)} {s : State} {e : Nat × PairRow} {p : Nat} {r : PairRecord}

/-- A pair that is judged after a drop was so before it, and is not the pair that the lost list drops. -/
theorem dropLost_judged (hr : (dropLost lost s e).pe.pairs.get p = some r) (hl : r.state.level? ≠ none) :
    s.pe.pairs.get p = some r ∧ (p = e.1 → firstLost lost e.2 = none) := by
  unfold dropLost at hr
  cases hfirst : firstLost lost e.2 with
  | none =>
    have hfirst' : e.2.channels.findSome? (fun c => lost.lookup c) = none := hfirst
    rw [hfirst'] at hr
    exact ⟨hr, fun _ => rfl⟩
  | some q =>
    have hfirst' : e.2.channels.findSome? (fun c => lost.lookup c) = some q := hfirst
    rw [hfirst'] at hr
    dsimp only at hr
    rw [dropPair_get, Option.map_eq_some_iff] at hr
    obtain ⟨r', hr', heq⟩ := hr
    split at heq
    · rw [← heq] at hl
      exact absurd rfl hl
    · rename_i hnot
      rw [heq] at hr' hnot
      exact ⟨hr', fun hp => absurd ⟨hp, hl⟩ hnot⟩

theorem foldl_dropLost_judged (rows : Keyed PairRow) (hr : (rows.foldl (dropLost lost) s).pe.pairs.get p = some r)
    (hl : r.state.level? ≠ none) :
    s.pe.pairs.get p = some r ∧ ∀ e ∈ rows, p = e.1 → firstLost lost e.2 = none := by
  induction rows generalizing s with
  | nil => exact ⟨hr, fun e he => by cases he⟩
  | cons x rows ih =>
    obtain ⟨hrest, hrows⟩ := ih (s := dropLost lost s x) hr
    obtain ⟨hs, hx⟩ := dropLost_judged hrest hl
    exact ⟨hs, fun e he => (List.mem_cons.1 he).elim (fun h => h ▸ hx) (hrows e)⟩

/-- Evaluations of no pairs do nothing. -/
theorem foldl_evaluatePair_nil (rows : Keyed PairRow) (s : State) : rows.foldl (evaluatePair []) s = s := by
  induction rows with
  | nil => rfl
  | cons e rows ih => exact ih

/-- An evaluation leaves a pair judged where all its inputs are usable alone (R91). -/
theorem evaluated_judged {row : PairRow} (h : (evaluated s row r).state.level? ≠ none) :
    ∀ c ∈ row.channels, (s.reading c).quality.usable = true := by
  rw [← inputCheck_eq_none]
  cases hc : inputCheck s row with
  | none => rfl
  | some reason =>
    refine absurd ?_ h
    unfold evaluated
    rw [hc]
    rfl

end

/-! ### Judged pairs have usable inputs (R86) -/

/-- Each judged pair of a row has all three of its inputs usable. -/
def JudgedUsable (s : State) : Prop := ∀ p row r, s.tb.active.pair.get p = some row → s.pe.pairs.get p = some r →
  r.state.level? ≠ none → ∀ c ∈ row.channels, (s.reading c).quality.usable = true

theorem judgedUsable_iff {s : State} (h : Follows s) : JudgedPairsUsable s ↔ JudgedUsable s := by
  constructor
  · intro k p row r hrow hr hl
    obtain ⟨row', hrow', hu⟩ := k (p, r) (Keyed.mem_of_get hr) hl
    rw [hrow] at hrow'
    cases hrow'
    exact hu
  · intro k e he hl
    have hkey : e.1 ∈ s.tb.active.pair.keys := h.pairs ▸ List.mem_map.2 ⟨e, he, rfl⟩
    obtain ⟨row, hrow⟩ := Option.isSome_iff_exists.1 (Keyed.get_isSome_iff.2 hkey)
    exact ⟨row, hrow, k e.1 row e.2 hrow (Keyed.get_of_mem h.pairsWf he) hl⟩

theorem reading_congr {s t : State} (h : t.si = s.si) (c : Nat) : t.reading c = s.reading c := by rw [State.reading, h]; rfl

theorem evaluatePair_usable {s : State} (hw : Keyed.wf s.tb.active.pair) (updated : List Nat) {e : Nat × PairRow}
    (he : e ∈ s.tb.active.pair) (h : JudgedUsable s) : JudgedUsable (evaluatePair updated s e) := by
  obtain ⟨_, _, _, hsi, htb, _⟩ := (evaluatePair_only updated s e).keeps
  intro p row r hrow hr hl c hc
  rw [htb] at hrow
  rw [reading_congr hsi]
  unfold evaluatePair at hr
  split at hr
  · cases hget : s.pe.pairs.get e.1 with
    | none =>
      rw [hget] at hr
      exact h p row r hrow hr hl c hc
    | some r' =>
      rw [hget] at hr
      have hpe : (writePair e.1 e.2 (evaluated s e.2 r') s).pe.pairs = s.pe.pairs.put e.1 (evaluated s e.2 r') :=
        congrArg (·.pairs) (zoneNotice_frame e.2.zone (s.setPe _)).2.2.2
      dsimp only at hr
      rw [hpe, Keyed.get_put] at hr
      by_cases hp : e.1 = p
      · rw [if_pos hp] at hr
        have hrow' : row = e.2 := Option.some.inj (hrow.symm.trans (hp ▸ Keyed.get_of_mem hw he))
        rw [← Option.some.inj hr] at hl
        exact evaluated_judged hl c (hrow' ▸ hc)
      · rw [if_neg hp] at hr
        exact h p row r hrow hr hl c hc
  · exact h p row r hrow hr hl c hc

/-- A notice leaves the judged pairs with usable inputs, when it tells of the inputs of judged pairs that are not usable. -/
theorem pairNotice_usable {s : State} (hw : Keyed.wf s.tb.active.pair) (lost : List (Nat × Quality)) (updated : List Nat)
    (h : ∀ p row r, s.tb.active.pair.get p = some row → s.pe.pairs.get p = some r → r.state.level? ≠ none →
      ∀ c ∈ row.channels, (s.reading c).quality.usable = true ∨ lost.lookup c ≠ none) : JudgedUsable (pairNotice lost updated s) := by
  rw [pairNotice_eq]
  obtain ⟨u, hu⟩ : ∃ u, u = s.tb.active.pair.foldl (dropLost lost) s := ⟨_, rfl⟩
  obtain ⟨_, _, _, hsi, htb, _⟩ :=
    (foldl_keeps PairsOnly PairsOnly.refl PairsOnly.trans _ (dropLost_only lost) s.tb.active.pair s).keeps
  rw [← hu] at hsi htb ⊢
  have hdropped : JudgedUsable u := fun p row r hrow hr hl c hc => by
    rw [htb] at hrow
    rw [hu] at hr
    obtain ⟨hr, hrows⟩ := foldl_dropLost_judged _ hr hl
    have hnone := firstLost_eq_none.1 (hrows (p, row) (Keyed.mem_of_get hrow) rfl) c hc
    rw [reading_congr hsi]
    exact (h p row r hrow hr hl c hc).resolve_right fun hne => hne hnone
  refine (foldl_law (P := fun v => v.tb = u.tb ∧ JudgedUsable v) (fun v e he hv => ?_) ⟨rfl, hdropped⟩).2
  obtain ⟨hvtb, hv⟩ := hv
  have hactive : v.tb.active.pair = s.tb.active.pair := by rw [hvtb, htb]
  refine ⟨(evaluatePair_only updated v e).keeps.2.2.2.2.1.trans hvtb, ?_⟩
  exact evaluatePair_usable (hactive ▸ hw) updated (hactive ▸ he) hv

theorem lookup_ne_none {lost : List (Nat × Quality)} {c : Nat} {q : Quality} (h : (c, q) ∈ lost) : lost.lookup c ≠ none := by
  induction lost with
  | nil => cases h
  | cons e lost ih =>
    obtain ⟨k, q'⟩ := e
    rw [List.lookup_cons]
    by_cases hk : c = k
    · simp [hk]
    · have hbeq : (c == k) = false := by simpa using hk
      rw [hbeq]
      rcases List.mem_cons.1 h with heq | hmem
      · cases heq; exact absurd rfl hk
      · exact ih hmem

theorem reading_usable_get {s : State} {c : Nat} (h : (s.reading c).quality.usable = true) :
    ∃ r, s.si.readings.get c = some r ∧ r.quality.usable = true := by
  unfold State.reading at h
  cases hr : s.si.readings.get c with
  | none => rw [hr] at h; cases h
  | some r => rw [hr] at h; exact ⟨r, rfl, h⟩

theorem reading_of_get {s : State} {c : Nat} {r : Reading} (h : s.si.readings.get c = some r) : s.reading c = r := by
  rw [State.reading, h]; rfl

/-- The channels of a pair have PROBE rows (check 4). -/
theorem exists_probe_of_pair {c : Tables} (h : c.installable) {p : Nat} {row : PairRow} (hrow : c.pair.get p = some row) {k : Nat}
    (hk : k ∈ row.channels) : ∃ q, c.probe.get k = some q := by
  obtain ⟨⟨a, ha, _⟩, ⟨b, hb, _⟩, ⟨d, hd, _⟩⟩ := h.kinds_of_pair hrow
  simp only [PairRow.channels, List.mem_cons, List.not_mem_nil, or_false] at hk
  rcases hk with rfl | rfl | rfl
  · exact ⟨a, ha⟩
  · exact ⟨b, hb⟩
  · exact ⟨d, hd⟩

/-- After an intake event a channel that was usable is so, or stands in its lost list (R51). -/
theorem intake_usable_or_lost {s : State} (hinst : s.tb.active.installable) (n : Notice) {c : Nat} {q : ProbeRow}
    (hq : s.tb.active.probe.get c = some q) (hu : (s.reading c).quality.usable = true) :
    ((s.setSi { s.si with readings := (intakeWork n s).readings }).reading c).quality.usable = true ∨
    (lostList (channelsOf s.tb.active.probe n.node).keys s.si.readings (intakeWork n s).readings).lookup c ≠ none := by
  have hw : Keyed.wf s.tb.active.probe := hinst.1.2.1.1
  obtain ⟨r, hr, hru⟩ := reading_usable_get hu
  have hafter : (intakeEvent n s).si.readings.get c = (intakeWork n s).readings.get c := by rw [intakeEvent_si]
  by_cases hnode : q.node = n.node
  · have hget := hafter.symm.trans (intakeEvent_mine hinst hq hnode)
    rw [hr] at hget
    have hnew : (s.setSi { s.si with readings := (intakeWork n s).readings }).reading c =
        takenReading s.ps.cycle n q (s.si.forces.get c) r := reading_of_get hget
    cases hu' : (takenReading s.ps.cycle n q (s.si.forces.get c) r).quality.usable with
    | true => exact .inl (by rw [hnew]; exact hu')
    | false =>
      exact .inr (lookup_ne_none ((mem_lostList _ _ _).2 ⟨(mem_channelsOf_keys hw hq).2 hnode, r, _, hr, hget, hru, hu', rfl⟩))
  · have hget := hafter.symm.trans (intakeEvent_other hinst hq hnode)
    rw [hr] at hget
    have hnew : (s.setSi { s.si with readings := (intakeWork n s).readings }).reading c = r := reading_of_get hget
    exact .inl (by rw [hnew]; exact hru)

/-- After a count-down a channel that was usable is so, or stands in its lost list (R52). -/
theorem countDown_usable_or_lost {s : State} (hw : Keyed.wf s.si.readings) {c : Nat} (hu : (s.reading c).quality.usable = true) :
    ((s.setSi { s.si with readings := s.si.readings.mapRows fun _ r => r.countDown }).reading c).quality.usable = true ∨
    (s.si.readings.filterMap fun e => if e.2.fresh = 1 then some (e.1, Quality.stale) else none).lookup c ≠ none := by
  obtain ⟨r, hr, hru⟩ := reading_usable_get hu
  have hget : (s.si.readings.mapRows fun _ r => r.countDown).get c = some r.countDown :=
    (Keyed.get_mapRows_const s.si.readings Reading.countDown c).trans (congrArg _ hr)
  have hnew : (s.setSi { s.si with readings := s.si.readings.mapRows fun _ r => r.countDown }).reading c = r.countDown :=
    reading_of_get hget
  by_cases h1 : r.fresh = 1
  · exact .inr (lookup_ne_none ((mem_lost_iff hw c .stale).2 ⟨rfl, r, hr, h1⟩))
  · refine .inl ?_
    rw [hnew, Reading.countDown]
    split
    · exact hru
    · exact hru

/-- After the stop no pair of a row is judged (R103). -/
theorem stopWork_unjudged {s : State} {p : Nat} {row : PairRow} (hrow : s.tb.active.pair.get p = some row) {r : PairRecord}
    (hr : (stopWork s).pe.pairs.get p = some r) : r.state.level? = none := by
  have hget := stopPairs_get (stopReadings s) p
  have hsome : ((stopReadings s).tb.active.pair.get p).isSome = true := by
    rw [show (stopReadings s).tb.active.pair.get p = some row from hrow]; rfl
  rw [show stopPairs (stopReadings s) = stopWork s from rfl, hr] at hget
  obtain ⟨r', _, heq⟩ := Option.map_eq_some_iff.1 hget.symm
  by_cases hl : r'.state.level? = none
  · rw [if_neg fun h => h.2 hl] at heq
    rw [← heq]; exact hl
  · rw [if_pos ⟨hsome, hl⟩] at heq
    rw [← heq]; rfl

/-- A commit keeps a judged pair with the readings it is judged by (R104, R148). -/
theorem takeCommit_judged {s : State} {c : Tables} (hc : c.installable) {p : Nat} {row : PairRow} {r : PairRecord}
    (hrow : c.pair.get p = some row) (hr : (takeCommit c s).pe.pairs.get p = some r) (hl : r.state.level? ≠ none) :
    s.tb.active.pair.get p = some row ∧ s.pe.pairs.get p = some r ∧ ∀ k ∈ row.channels, (takeCommit c s).reading k = s.reading k := by
  rw [takeCommit_pair, hrow, Option.map_some] at hr
  replace hr := Option.some.inj hr
  split at hr
  · rw [← hr] at hl
    exact absurd rfl hl
  · rename_i hsame
    rw [pairChanged_iff, not_or, not_or] at hsame
    obtain ⟨hpair, hprobe, _⟩ := hsame
    refine ⟨(not_not.1 hpair).trans hrow, ?_, fun k hk => ?_⟩
    · cases hget : s.pe.pairs.get p with
      | none =>
        rw [hget] at hr
        rw [← hr] at hl
        exact absurd rfl hl
      | some r' =>
        rw [hget] at hr
        exact congrArg some hr
    · have hkept : ¬ rowChanged s.tb.active.probe c.probe k = true := fun h => hprobe ⟨k, hk, rowChanged_iff.1 h⟩
      obtain ⟨q, hq⟩ := exists_probe_of_pair hc hrow hk
      have hread := takeCommit_reading c s k
      rw [hq, Option.map_some, if_neg hkept] at hread
      exact reading_of_get hread

/-- Every change keeps the inputs of judged pairs usable. -/
theorem JudgedUsable.change {s t : State} (k : RecordChange Tables.installable s t) (hf : Follows s) (h : JudgedUsable s) :
    JudgedUsable t := by
  cases k with
  | quiet k =>
    cases k with
    | same k =>
      intro p row r hrow hr hl c hc
      rw [k.active] at hrow
      rw [k.pe] at hr
      rw [reading_congr k.si]
      exact h p row r hrow hr hl c hc
    | _ => exact h
  | intake n =>
    refine pairNotice_usable (s := s.setSi { s.si with readings := (intakeWork n s).readings }) hf.pairWf _ _ fun p row r hrow hr hl c hc => ?_
    obtain ⟨q, hq⟩ := exists_probe_of_pair hf.tables hrow hc
    exact intake_usable_or_lost hf.tables n hq (h p row r hrow hr hl c hc)
  | countDown =>
    refine pairNotice_usable (s := s.setSi { s.si with readings := s.si.readings.mapRows fun _ r => r.countDown }) hf.pairWf _ _ fun p row r hrow hr hl c hc => ?_
    exact countDown_usable_or_lost hf.readingsWf (h p row r hrow hr hl c hc)
  | stopWork =>
    intro p row r hrow hr hl
    rw [(stopWork_only s).keeps.2.2.2.1] at hrow
    exact absurd (stopWork_unjudged hrow hr) hl
  | commit c hc =>
    intro p row r hrow hr hl k hk
    obtain ⟨hrow', hr', hread⟩ := takeCommit_judged hc hrow hr hl
    rw [hread k hk]
    exact h p row r hrow' hr' hl k hk

/-- What a command does in START: an entry to START, the end of start-up, or quiet changes in START (R22, R165, R188). -/
theorem exec_in_start {c : Instr} {s t : State} (hp : PhaseSound s) (hstart : s.mc.mode = .start) (he : exec c s = .next t) :
    (∃ reason u, t = enterStart reason u) ∨ t = endStart s ∨
    (t.mc.mode = .start ∧ QuietChanges s t) := by
  have same : ∀ {u : State}, u.mc.mode = s.mc.mode → SameRecords s u →
      (∃ reason v, u = enterStart reason v) ∨ u = endStart s ∨ (u.mc.mode = .start ∧ QuietChanges s u) :=
    fun hm h => .inr (.inr ⟨hm.trans hstart, .single (.same h)⟩)
  have hstill : s.ti.exchange = none := by
    cases hx : s.ti.exchange with
    | none => rfl
    | some x =>
      rcases (hp.walking hx).2.2 with h | h <;> rw [hstart] at h <;> cases h
  have htimer : s.ps.timer = .stopped := hp.2.2.2.1 (hp.1.2 (.inl hstart))
  cases exec_effect he with
  | powerStart => exact .inl ⟨_, _, rfl⟩
  | resetStart => exact .inl ⟨_, _, rfl⟩
  | restart => exact .inl ⟨_, _, rfl⟩
  | startUp => exact .inr (.inl rfl)
  | written _ _ result => unfold writeEnds; split <;> exact same rfl ⟨rfl, rfl, rfl, rfl, rfl, rfl⟩
  | timer =>
    rcases timerExpires_cases s with e | ⟨_, h, _⟩ | ⟨_, h, _⟩
    · rw [e]; exact same rfl (.refl s)
    all_goals rw [htimer] at h; cases h
  | frameStarts =>
    rcases frameStarts_cases s with e | ⟨x, hx, _⟩
    · rw [e]; exact same rfl (.refl s)
    · rw [hstill] at hx; cases hx
  | frameSent =>
    rcases frameSent_cases s with e | ⟨x, hx, _⟩
    · rw [e]; exact same rfl (.refl s)
    · rw [hstill] at hx; cases hx
  | line _ _ _ _ hc =>
    rcases whileListening_cases hc s with e | ⟨x, _, hx, _⟩
    · rw [e]; exact same rfl (.refl s)
    · rw [hstill] at hx; cases hx
  | loadTimeout => exact same rfl (abandonLoad_same s)
  | lineBreak =>
    have hbreak := (abandonLoad_same s).trans (breakSummary_same (abandonLoad s))
    have hmc : (breakSummary (abandonLoad s)).mc = s.mc := (breakSummary_only (abandonLoad s)).keeps.2.2.2.2.2.2.2.2.1
    exact same (congrArg (·.mode) hmc) ⟨hbreak.1, hbreak.2, hbreak.3, hbreak.4, hbreak.5, hbreak.6⟩
  | request _ _ _ _ a code r p =>
    have hserved := judgeRequest_served r p s
    have hmode : (respond a code (judgeRequest r p s)).mc.mode = .start := hserved.start_iff.2 hstart
    have hquiet : QuietChanges s (respond a code (judgeRequest r p s)) := by
      have hlast : SameRecords (judgeRequest r p s).state (respond a code (judgeRequest r p s)) := ⟨rfl, rfl, rfl, rfl, rfl, rfl⟩
      refine Relation.ReflTransGen.trans (.single ?_) (QuietChanges.of_same hlast)
      rcases hserved.records with h | ⟨hidle, _⟩
      · exact h
      · rw [hstart] at hidle; cases hidle
    rcases follow_cases r (respond a code (judgeRequest r p s)) with ⟨e, _⟩ | ⟨_, h, _⟩ | ⟨_, h, _⟩
    · rw [e]; exact .inr (.inr ⟨hmode, hquiet⟩)
    all_goals rw [hmode] at h; cases h
  | _ => exact same rfl ⟨rfl, rfl, rfl, rfl, rfl, rfl⟩

theorem judgedPairsUsable_quiet {s t : State} (k : QuietChange s t) (h : JudgedPairsUsable s) : JudgedPairsUsable t := by
  cases k with
  | same k =>
    unfold JudgedPairsUsable
    rw [k.active, k.pe]
    intro e he hl
    obtain ⟨row, hrow, hu⟩ := h e he hl
    exact ⟨row, hrow, fun c hc => by rw [reading_congr k.si]; exact hu c hc⟩
  | _ => exact h

/-- The end of START changes the records that it builds. -/
theorem endStart_changed {s : State} (hs : TablesSound s) :
    ∃ m, m ≠ .start ∧ ChangedFrom Tables.installable (started m s) (endStart s) := by
  have hpending : PendingOk Tables.installable s := hs.2.2.2
  rw [endStart_eq]
  split
  · exact ⟨.survey, by decide, (changedFrom_law _).openCycle ⟨hpending, .refl⟩⟩
  · exact ⟨.idle, by decide, hpending, .refl⟩

theorem judgedUsable_started (m : Mode) (s : State) : JudgedUsable (started m s) := by
  intro p row r _ hr hl
  have hpairs : (started m s).pe.pairs.get p = (s.tb.active.pair.get p).map fun _ => PairRecord.new :=
    Keyed.get_mapRows_const s.tb.active.pair (fun _ => PairRecord.new) p
  rw [hpairs] at hr
  obtain ⟨_, _, rfl⟩ := Option.map_eq_some_iff.1 hr
  exact absurd rfl hl

/-- Changes keep the records in line with the tables and the inputs of judged pairs usable. -/
theorem judgedUsable_changes {s t : State} (k : RecordChanges Tables.installable s t) (hf : Follows s) (h : JudgedUsable s) :
    Follows t ∧ JudgedUsable t :=
  changes_law (P := fun s => Follows s ∧ JudgedUsable s) (fun k h => ⟨h.1.change k, h.2.change k h.1⟩) k ⟨hf, h⟩

/-- Settles O13: a notice drops each judged pair whose input it tells of, and an evaluation judges by usable inputs alone. -/
theorem judgedPairsStayUsable : Obligations.JudgedPairsStayUsable := by
  intro s t hs hfollow hphase h hstep
  have exec_keeps : ∀ {c : Instr} {s t : State}, TablesSound s → RecordsFollowTables s ∧ PhaseSound s ∧ JudgedPairsUsable s →
      exec c s = .next t → JudgedPairsUsable t := by
    rintro c s t hs ⟨hfollow, hphase, h⟩ he
    have changes : ∀ {u}, RecordChanges Tables.installable u t → Follows u → JudgedUsable u → JudgedPairsUsable t :=
      fun k hf hu => have ⟨hf', hu'⟩ := judgedUsable_changes k hf hu; (judgedUsable_iff hf').2 hu'
    by_cases hstart : s.mc.mode = .start
    · rcases exec_in_start hphase hstart he with ⟨reason, u, rfl⟩ | rfl | ⟨_, hquiet⟩
      · exact fun e he => by cases he
      · obtain ⟨m, _, _, k⟩ := endStart_changed hs
        exact changes k (.started hs.1 m) (judgedUsable_started m s)
      · exact changes_law (P := JudgedPairsUsable) (fun k h => judgedPairsUsable_quiet k h) hquiet h
    · have hf : Follows s := (follows_iff hs.1 hstart).2 hfollow
      cases tablesSound_changes hs he with
      | entered => exact fun e he => by cases he
      | built _ _ hstart' => exact absurd hstart' hstart
      | changed _ _ k => exact changes k hf ((judgedUsable_iff hf).1 h)
  rcases step_cases hstep with rfl | ⟨c, rest, _, he⟩
  · exact h
  · exact exec_keeps (s := { s with pending := rest }) hs ⟨hfollow, hphase, h⟩ he

end Sys2Proof.Machine

/-! SUPPORT. The rest in IDLE (R54, R92, R103): the statement O18. -/

namespace Sys2Proof.Machine

/-! ### No reading usable, no pair judged -/

/-- No channel has a usable reading and no pair is judged. -/
structure Unwatched (s : State) : Prop where
  readings : ∀ k r, s.si.readings.get k = some r → r.quality.usable = false
  pairs : ∀ p r, s.pe.pairs.get p = some r → r.state.level? = none

theorem Unwatched.congr {s t : State} (h : Unwatched s) (hsi : t.si.readings = s.si.readings) (hpe : t.pe = s.pe) : Unwatched t :=
  ⟨hsi ▸ h.readings, hpe ▸ h.pairs⟩

theorem unwatched_iff {s : State} (hf : Follows s) : Unwatched s ↔
    (∀ e ∈ s.si.readings, e.2.quality.usable = false) ∧ (∀ e ∈ s.pe.pairs, e.2.state.level? = none) :=
  ⟨fun h => ⟨fun e he => h.readings e.1 e.2 (Keyed.get_of_mem hf.readingsWf he),
      fun e he => h.pairs e.1 e.2 (Keyed.get_of_mem hf.pairsWf he)⟩,
    fun ⟨hr, hp⟩ => ⟨fun _ _ h => hr _ (Keyed.mem_of_get h), fun _ _ h => hp _ (Keyed.mem_of_get h)⟩⟩

theorem countDown_usable {r : Reading} (h : r.quality.usable = false) : r.countDown.quality.usable = false := by
  unfold Reading.countDown
  split
  · exact h
  · split
    · rfl
    · exact h

theorem atStop_unusable (r : Reading) : r.atStop.quality.usable = false := by
  unfold Reading.atStop
  split
  · rfl
  · exact Bool.eq_false_of_not_eq_true ‹_›

/-- A count-down makes no reading usable and evaluates no pair (R52). -/
theorem Unwatched.countDown {s : State} (h : Unwatched s) : Unwatched (countDown s) where
  readings := fun k r hr => by
    rw [countDown_si, Keyed.get_mapRows_const s.si.readings Reading.countDown k] at hr
    obtain ⟨r', hr', rfl⟩ := Option.map_eq_some_iff.1 hr
    exact countDown_usable (h.readings k r' hr')
  pairs := fun p r hr => by
    by_contra hl
    unfold Machine.countDown at hr
    rw [pairNotice_eq, foldl_evaluatePair_nil] at hr
    exact hl (h.pairs p r (foldl_dropLost_judged _ hr hl).1)

/-- A commit gives new readings and pairs, or keeps those there are (R55, R104). -/
theorem Unwatched.takeCommit {s : State} (h : Unwatched s) (c : Tables) : Unwatched (takeCommit c s) where
  readings := fun k r hr => by
    rw [takeCommit_reading] at hr
    obtain ⟨_, _, rfl⟩ := Option.map_eq_some_iff.1 hr
    split
    · rfl
    · cases hget : s.si.readings.get k with
      | none => rfl
      | some r => exact h.readings k r hget
  pairs := fun p r hr => by
    rw [takeCommit_pair] at hr
    obtain ⟨_, _, rfl⟩ := Option.map_eq_some_iff.1 hr
    split
    · rfl
    · cases hget : s.pe.pairs.get p with
      | none => rfl
      | some r => exact h.pairs p r hget

/-- The work of the stop leaves no reading usable and no pair judged (R54, R103). -/
theorem Follows.stopWork_unwatched {s : State} (hf : Follows s) : Unwatched (stopWork s) where
  readings := fun k r hr => by
    rw [stopWork_si, Keyed.get_mapRows_const s.si.readings Reading.atStop k] at hr
    obtain ⟨r', _, rfl⟩ := Option.map_eq_some_iff.1 hr
    exact atStop_unusable r'
  pairs := fun p r hr => by
    have hkey : p ∈ s.tb.active.pair.keys := by
      rw [← (hf.change (.stopWork s)).pairs.trans (congrArg (·.active.pair.keys) (stopWork_only s).keeps.2.2.2.1)]
      exact Keyed.get_isSome_iff.1 (by rw [hr]; rfl)
    obtain ⟨row, hrow⟩ := Option.isSome_iff_exists.1 (Keyed.get_isSome_iff.2 hkey)
    exact stopWork_unjudged hrow hr

theorem unwatched_started (m : Mode) (s : State) : Unwatched (started m s) where
  readings := fun k r hr => by
    have hreadings : (started m s).si.readings.get k = (s.tb.active.probe.get k).map fun _ => {} :=
      Keyed.get_mapRows_const s.tb.active.probe (fun _ => ({} : Reading)) k
    obtain ⟨_, _, rfl⟩ := Option.map_eq_some_iff.1 (hreadings.symm.trans hr)
    rfl
  pairs := fun p r hr => by
    have hpairs : (started m s).pe.pairs.get p = (s.tb.active.pair.get p).map fun _ => PairRecord.new :=
      Keyed.get_mapRows_const s.tb.active.pair (fun _ => PairRecord.new) p
    obtain ⟨_, _, rfl⟩ := Option.map_eq_some_iff.1 (hpairs.symm.trans hr)
    rfl

/-! ### The rest in IDLE -/

/-- The records follow the tables, a pending commit is of installable tables, and IDLE watches nothing. -/
structure Rests (s : State) : Prop where
  pending : PendingOk Tables.installable s
  follows : Follows s
  idle : s.mc.mode = .idle → Unwatched s

/-- What changes the records and does not enter IDLE keeps the rest, when it keeps IDLE's. -/
theorem Rests.changed {s t : State} (h : Rests s) (k : ChangedFrom Tables.installable s t) (hmode : t.mc.mode = s.mc.mode)
    (hidle : Unwatched s → Unwatched t) : Rests t :=
  ⟨k.1, h.follows.changes k.2, fun hm => hidle (h.idle (hmode ▸ hm))⟩

theorem Rests.here {s : State} (h : Rests s) : ChangedFrom Tables.installable s s := ⟨h.pending, .refl⟩

theorem Rests.same {s t : State} (h : Rests s) (k : SameRecords s t) (hpending : t.tb.pendingCommit = s.tb.pendingCommit)
    (hmode : t.mc.mode = s.mc.mode) : Rests t :=
  h.changed (h.here.same hpending k) hmode fun hu => hu.congr (congrArg (·.readings) k.si) k.pe

theorem cycleStart_unwatched {s : State} (h : Unwatched s) : Unwatched (cycleStart s) := by
  have hbegun : Unwatched (s.setPs { s.ps with cycle := s.ps.cycle + 1, phase := .walking, position := none }) := h.congr rfl rfl
  have hboundary := boundary_law (P := Unwatched) countDown_only (fun h => h.congr rfl rfl) (fun h => h.countDown)
    (fun {_ c} _ h => h.takeCommit c) hbegun
  exact hboundary.congr rfl rfl

/-- The stop leaves nothing watched, whether a commit is taken before its work or after it (R145, R146). -/
theorem stop_unwatched {s : State} (h : Rests s) : Unwatched (stop s) := by
  have hstopping : Follows (stopping s) := h.follows.same (stopping_same s)
  have htb : (stopping s).tb = s.tb := (stopping_keeps s).2.2.2.1
  rw [stop_eq]
  rcases boundary_cases stopWork (stopping s) with ⟨_, e⟩ | ⟨c, hc, e | e⟩ <;> rw [e]
  · exact hstopping.stopWork_unwatched
  · exact (Follows.commit (h.pending c (htb ▸ hc))).stopWork_unwatched
  · have hnext : Follows (stopping s).nextOrder := hstopping.same ⟨rfl, rfl, rfl, rfl, rfl, rfl⟩
    exact hnext.stopWork_unwatched.takeCommit c

/-- The parts of a cycle keep the rest: of them the stop alone enters IDLE. -/
theorem rests_law : CycleLaw Rests where
  start := fun {s} h => h.changed ((changedFrom_law s).start h.here) (congrArg (·.mode) (cycleStart_keeps s).1) cycleStart_unwatched
  sent := fun k h => h.same k.same (by cases k <;> rfl) (by cases k <;> rfl)
  completed := fun k h => h.same k.same (by cases k; rfl) (congrArg (·.mode) k.mc_timer.1)
  stop := fun {s} h =>
    have hchanged := (changedFrom_law s).stop h.here
    ⟨hchanged.1, h.follows.changes hchanged.2, fun _ => stop_unwatched h⟩
  ps := fun _ _ _ h => h.same ⟨rfl, rfl, rfl, rfl, rfl, rfl⟩ rfl rfl

/-- A request leaves the rest: what it does in IDLE is quiet, or the taking of a commit. -/
theorem Served.rests {r : Option Request} {s t : State} (h : Served r s t)
    (hcandidate : crossCheck s.tb.candidate = none → s.tb.candidate.installable) (hs : Rests s) : Rests t := by
  have hidle : t.mc.mode = .idle → s.mc.mode = .idle := fun hm => by
    by_cases hr : r = some .mode
    · subst hr
      rcases h.mode_cases with e | ⟨_, e⟩ | ⟨_, e⟩ | ⟨_, e⟩
      · exact e.symm.trans hm
      all_goals rw [e] at hm; cases hm
    · exact (h.control.2.2.2.2.2.2.2.2.2 hr).symm.trans hm
  have hpending := h.pendingOk hcandidate hs.pending
  rcases h.records with k | ⟨_, hcheck, rfl⟩
  · refine ⟨hpending, hs.follows.quiet k, fun hm => ?_⟩
    have hu := hs.idle (hidle hm)
    cases k with
    | same k => exact hu.congr (congrArg (·.readings) k.si) k.pe
    | _ => exact hu.congr rfl rfl
  · exact ⟨hpending, .commit (hcandidate hcheck), fun hm => (hs.idle (hidle hm)).takeCommit _⟩

/-- A line's event keeps the rest: in IDLE there is no exchange. -/
theorem Rests.whileListening {c : Instr} {f : Exchange → Exchange} (hc : LineEvent c f) {s : State} (hphase : PhaseSound s)
    (h : Rests s) : Rests (whileListening f s) := by
  rcases whileListening_cases hc s with e | ⟨x, y, hx, _, _, _, e | ⟨a, b, e⟩⟩ <;> rw [e]
  · exact h
  · exact h.same ⟨rfl, rfl, rfl, rfl, rfl, rfl⟩ rfl rfl
  · have hchanged := completeExchange_changed y a b h.here
    refine rests_law.continueWalk ⟨hchanged.1, h.follows.changes hchanged.2, fun hm => ?_⟩
    rw [(completeExchange_ps_mc y a b s).2] at hm
    rcases (hphase.walking hx).2.2 with e | e <;> rw [hm] at e <;> cases e

/-- Outside START every command leaves the rest. -/
theorem exec_rests {c : Instr} {s t : State} (hs : TablesSound s) (hphase : PhaseSound s) (hstart : s.mc.mode ≠ .start)
    (h : Rests s) (he : exec c s = .next t) : t.mc.mode = .idle → Unwatched t := by
  have same : ∀ {u : State}, u.mc.mode = s.mc.mode → SameRecords s u → u.mc.mode = .idle → Unwatched u := fun hm k hu =>
    (h.idle (hm ▸ hu)).congr (congrArg (·.readings) k.si) k.pe
  cases exec_effect he with
  | powerStart => exact fun hm => by cases hm
  | resetStart => exact fun hm => by cases hm
  | restart => exact fun hm => by cases hm
  | startUp _ _ hmode => exact absurd hmode hstart
  | written _ _ result => unfold writeEnds; split <;> exact same rfl ⟨rfl, rfl, rfl, rfl, rfl, rfl⟩
  | timer => exact (rests_law.timerExpires h).idle
  | frameStarts => rcases frameStarts_cases s with e | ⟨_, _, _, e⟩ <;> rw [e] <;> exact same rfl ⟨rfl, rfl, rfl, rfl, rfl, rfl⟩
  | frameSent => rcases frameSent_cases s with e | ⟨_, _, _, e⟩ <;> rw [e] <;> exact same rfl ⟨rfl, rfl, rfl, rfl, rfl, rfl⟩
  | line _ _ _ _ hc => exact (h.whileListening hc hphase).idle
  | loadTimeout => exact same rfl (abandonLoad_same s)
  | lineBreak =>
    have hbreak := (abandonLoad_same s).trans (breakSummary_same (abandonLoad s))
    have hmc : (breakSummary (abandonLoad s)).mc = s.mc := (breakSummary_only (abandonLoad s)).keeps.2.2.2.2.2.2.2.2.1
    exact same (congrArg (·.mode) hmc) ⟨hbreak.1, hbreak.2, hbreak.3, hbreak.4, hbreak.5, hbreak.6⟩
  | request _ _ _ _ a code r p =>
    obtain ⟨hactive, hstaged, _, _⟩ := hs
    have hserved := (judgeRequest_served r p s).rests (fun hcheck => ⟨candidate_sound hactive.1 hstaged, hcheck⟩) h
    have hrespond : Rests (respond a code (judgeRequest r p s)) := hserved.same ⟨rfl, rfl, rfl, rfl, rfl, rfl⟩ rfl rfl
    exact (rests_law.follow r hrespond).idle
  | _ => exact same rfl ⟨rfl, rfl, rfl, rfl, rfl, rfl⟩

/-- The end of START leaves the rest, in SURVEY or in IDLE. -/
theorem endStart_rests {s : State} (hs : TablesSound s) : Rests (endStart s) := by
  have hstarted : ∀ m, Rests (started m s) := fun m => ⟨hs.2.2.2, .started hs.1 m, fun _ => unwatched_started m s⟩
  rw [endStart_eq]
  split
  · exact rests_law.openCycle (hstarted .survey)
  · exact hstarted .idle

/-- Settles O18: IDLE is entered by the stop and at the end of START alone, each of which leaves nothing watched; in IDLE no
exchange brings readings, and no event evaluates a pair. -/
theorem idleStaysUnwatched : Obligations.IdleStaysUnwatched := by
  intro s t hs hfollow hphase h hstep
  have exec_keeps : ∀ {c : Instr} {s t : State}, TablesSound s → RecordsFollowTables s → PhaseSound s → IdleWatchesNothing s →
      exec c s = .next t → IdleWatchesNothing t := by
    intro c s t hs hfollow hphase h he hidle
    by_cases hstart : s.mc.mode = .start
    · rcases exec_in_start hphase hstart he with ⟨reason, u, rfl⟩ | rfl | ⟨hmode, _⟩
      · cases hidle
      · exact (unwatched_iff (endStart_rests hs).follows).1 ((endStart_rests hs).idle hidle)
      · rw [hmode] at hidle; cases hidle
    · have hf : Follows s := (follows_iff hs.1 hstart).2 hfollow
      have hrests : Rests s := ⟨hs.2.2.2, hf, fun hm => (unwatched_iff hf).2 (h hm)⟩
      cases tablesSound_changes hs he with
      | entered => cases hidle
      | built _ _ hstart' => exact absurd hstart' hstart
      | changed _ _ k => exact (unwatched_iff (hf.changes k)).1 (exec_rests hs hphase hstart hrests he hidle)
  rcases step_cases hstep with rfl | ⟨c, rest, _, he⟩
  · exact h
  · exact exec_keeps (s := { s with pending := rest }) hs hfollow hphase h he

end Sys2Proof.Machine
